-- ==== Sys2Proof/Word.lean ====
section
/-! DEFINITION. The two machine words of the spec: `u8` and `u16` (spec/00_scope.md R8, R9). Addresses are
natural numbers of no fixed width (spec/20_memory.md R51) and grid coordinates are integers (R9, R102), so
neither is a bit vector. -/

namespace Sys2Proof

/-- `u8` of R8: one byte of memory, the general register, an 8-bit operand. Bit 7 is the most significant (R9). -/
abbrev Byte := BitVec 8

/-- `u16` of R8: `cursor`, the counters, a 16-bit operand. -/
abbrev Word := BitVec 16

end Sys2Proof
end

