-- ==== Sys2Proof/Config.lean ====
section
/-! DEFINITION. What an implementation fixes (spec/00_scope.md R7, spec/10_state.md R39) and what the codec's
operations take as configuration: the twenty opcodes, the operand kinds of the four formats, the Grid
descriptor. The spec leaves no value open (spec/93_implementation_defined.md section 2), so there is no free
value here. The VALUES that R7 gives these parameters stand where a repair can mend them: the opcode bytes in
`Sys2Proof/Decode.lean` (`opc`), the guard in `Sys2Proof/Machine/Ops.lean` (`dispatchGuard`). -/

namespace Sys2Proof

/-- The twenty named opcodes, in the order of the table of spec/30_encoding.md R75. The implicit NOTE
instruction is no opcode: it is every byte outside the opcode map (R76). -/
inductive Opcode where
  | nop | halt | jump | ifJump | ifNotJump | syscall
  | set | add | sub | equal | lt | gt | ltEqual | gtEqual
  | ticks | ticks16 | wait | wait16 | instrument | play
deriving DecidableEq, Repr

/-- All twenty opcodes, in the order of R75. -/
def Opcode.all : List Opcode :=
  [.nop, .halt, .jump, .ifJump, .ifNotJump, .syscall,
   .set, .add, .sub, .equal, .lt, .gt, .ltEqual, .gtEqual,
   .ticks, .ticks16, .wait, .wait16, .instrument, .play]

/-- The operand column of R75: formats `OP`, `OP_U8` and `OP_U16` of R71. (Format `NOTE` belongs to the bytes
that are no opcode.) -/
inductive OperandKind where
  | none | u8 | u16
deriving DecidableEq, Repr

/-- The Grid descriptor `(baseOffset, width, height, fieldWidth)` of spec/10_state.md R33: immutable
configuration of `getAt` and `setAt`. The types are those of decision D12; which descriptors are well-formed is
R101. -/
structure Grid where
  baseOffset : Nat
  width : Nat
  height : Nat
  fieldWidth : Nat
deriving DecidableEq, Repr

end Sys2Proof
end

