-- ==== Sys2Proof/Syntax.lean ====
section
/-! DEFINITION. The instruction set: every row of spec/opcode_table.json (the five NOTE rows are one
instruction, spec/30_encoding.md R79; the four `CODEC_CALL` rows are the codec's operations, which the host
starts by name, R78). -/

namespace Sys2Proof

/-- One instruction of a Track's program, or one call of the codec. -/
inductive Instr where
  | nop
  | halt
  | jump (addr : Word)
  | ifJump (addr : Word)
  | ifNotJump (addr : Word)
  | syscall (code : Word)
  | set (v : Byte)
  | add (v : Byte)
  | sub (v : Byte)
  | equal (v : Byte)
  | lt (v : Byte)
  | gt (v : Byte)
  | ltEqual (v : Byte)
  | gtEqual (v : Byte)
  | ticks (v : Byte)
  | ticks16 (v : Word)
  | wait (v : Byte)
  | wait16 (v : Word)
  | instrument (v : Byte)
  | play (v : Byte)
  | note (b : Byte)
  | split (b : Byte) (w : Nat)
  | join (fields : List Int) (w : Nat)
  | getAt (g : Grid) (x y : Int)
  | setAt (g : Grid) (x y value : Int)
deriving DecidableEq, Repr

end Sys2Proof
end

