-- ==== Sys2Proof/WellFormed.lean ====
section
/-! DEFINITION. Which instructions are well-formed. Every operand of the twenty opcodes is legal
(spec/30_encoding.md R76); a NOTE byte is one outside the opcode map; the codec's operations have the shape
conditions of spec/40_codec_pack_unpack.md R95 and spec/41_codec_grid.md R101 (a), (c). Condition (d) of R101
speaks of memory, so the machine tests it (`Machine.gridOk`). -/

namespace Sys2Proof

/-- `W` is one of 1, 2, 4 (R90, R95, R101 (a)). -/
def validWidth (w : Nat) : Bool := w == 1 || w == 2 || w == 4

/-- `FPB(W)`, fields per byte (R7). -/
def fieldsPerByte (w : Nat) : Nat := 8 / w

/-- `join` takes exactly `8/W` values of a width in {1, 2, 4} (R93, R95). -/
def joinShapeOk (fields : List Int) (w : Nat) : Bool :=
  validWidth w && fields.length == fieldsPerByte w

/-- Conditions (a) and (c) of R101; (b) is the descriptor's type. -/
def Grid.shapeOk (g : Grid) : Bool :=
  validWidth g.fieldWidth && g.width % fieldsPerByte g.fieldWidth == 0

/-- The byte is none of the twenty opcode values under the map `m`, so it is a NOTE (R76). -/
def isNoteByte (m : Opcode → Byte) (b : Byte) : Bool := Opcode.all.all (fun o => m o != b)

/-- Well-formedness under an opcode map (the parameter `OPC` of R7, R74). -/
def Instr.wfWith (m : Opcode → Byte) : Instr → Bool
  | .nop => true
  | .halt => true
  | .jump _ => true
  | .ifJump _ => true
  | .ifNotJump _ => true
  | .syscall _ => true
  | .set _ => true
  | .add _ => true
  | .sub _ => true
  | .equal _ => true
  | .lt _ => true
  | .gt _ => true
  | .ltEqual _ => true
  | .gtEqual _ => true
  | .ticks _ => true
  | .ticks16 _ => true
  | .wait _ => true
  | .wait16 _ => true
  | .instrument _ => true
  | .play _ => true
  | .note b => isNoteByte m b
  | .split _ w => validWidth w
  | .join fields w => joinShapeOk fields w
  | .getAt g _ _ => g.shapeOk
  | .setAt g _ _ _ => g.shapeOk

/-- The instruction is one a Track's program can hold: it has an encoding. The codec's four operations have
none (R78, decision D25). -/
def Instr.isVm : Instr → Bool
  | .split _ _ => false
  | .join _ _ => false
  | .getAt _ _ _ => false
  | .setAt _ _ _ _ => false
  | .nop => true
  | .halt => true
  | .jump _ => true
  | .ifJump _ => true
  | .ifNotJump _ => true
  | .syscall _ => true
  | .set _ => true
  | .add _ => true
  | .sub _ => true
  | .equal _ => true
  | .lt _ => true
  | .gt _ => true
  | .ltEqual _ => true
  | .gtEqual _ => true
  | .ticks _ => true
  | .ticks16 _ => true
  | .wait _ => true
  | .wait16 _ => true
  | .instrument _ => true
  | .play _ => true
  | .note _ => true

end Sys2Proof
end

