-- ==== Sys2Proof/Decode.lean ====
section
/-! DEFINITION. The byte encoding (spec/30_encoding.md): the opcode map, the decoder, the encoder, and the
host's view of a table word. The decoder and the encoder take the opcode map as an argument (the parameter `OPC`
of spec/00_scope.md R7); `decode` and `encode` are they at the map this hardware takes (R75, decision D1). -/

namespace Sys2Proof

/-- The opcode map of R75: `0xEC` to `0xFF` in the order of the table (the spec's decision D1, which the model
follows; log entry 7). -/
def opc : Opcode → Byte
  | .nop => 0xEC
  | .halt => 0xED
  | .jump => 0xEE
  | .ifJump => 0xEF
  | .ifNotJump => 0xF0
  | .syscall => 0xF1
  | .set => 0xF2
  | .add => 0xF3
  | .sub => 0xF4
  | .equal => 0xF5
  | .lt => 0xF6
  | .gt => 0xF7
  | .ltEqual => 0xF8
  | .gtEqual => 0xF9
  | .ticks => 0xFA
  | .ticks16 => 0xFB
  | .wait => 0xFC
  | .wait16 => 0xFD
  | .instrument => 0xFE
  | .play => 0xFF

/-- Well-formedness under the opcode map of R75. -/
def Instr.wf (i : Instr) : Bool := i.wfWith opc

/-! ### Operand bytes (R72; spec/20_memory.md R52) -/

/-- The little-endian `u16` `{hi, lo}` of R11, R52. -/
def word16 (lo hi : Byte) : Word := hi ++ lo

/-- Bits 7:0 of a `u16`. -/
def loByte (w : Word) : Byte := w.extractLsb' 0 8

/-- Bits 15:8 of a `u16`. -/
def hiByte (w : Word) : Byte := w.extractLsb' 8 8

/-! ### Formats and lengths (R71, R73, R75) -/

/-- The operand column of R75. -/
def Opcode.operand : Opcode → OperandKind
  | .nop => .none
  | .halt => .none
  | .jump => .u16
  | .ifJump => .u16
  | .ifNotJump => .u16
  | .syscall => .u16
  | .set => .u8
  | .add => .u8
  | .sub => .u8
  | .equal => .u8
  | .lt => .u8
  | .gt => .u8
  | .ltEqual => .u8
  | .gtEqual => .u8
  | .ticks => .u8
  | .ticks16 => .u16
  | .wait => .u8
  | .wait16 => .u16
  | .instrument => .u8
  | .play => .u8

/-- How many operand bytes follow byte 0 (R71). -/
def OperandKind.bytes : OperandKind → Nat
  | .none => 0
  | .u8 => 1
  | .u16 => 2

/-- The opcode a byte stands for under a map, if it stands for one (R119). -/
def opcodeOf (m : Opcode → Byte) (b : Byte) : Option Opcode := Opcode.all.find? (fun o => m o == b)

/-- The length of the instruction whose byte 0 is `b` (R73): nothing but byte 0 decides it. -/
def lengthOf (m : Opcode → Byte) (b : Byte) : Nat :=
  match opcodeOf m b with
  | some o => 1 + o.operand.bytes
  | none => 1

/-! ### The decoder -/

/-- The instruction of an opcode whose operand bytes are `b1` (low) and `b2` (high); an operand byte the format
does not have is not looked at (R71, R72). -/
def Opcode.instr (o : Opcode) (b1 b2 : Byte) : Instr :=
  match o with
  | .nop => .nop
  | .halt => .halt
  | .jump => .jump (word16 b1 b2)
  | .ifJump => .ifJump (word16 b1 b2)
  | .ifNotJump => .ifNotJump (word16 b1 b2)
  | .syscall => .syscall (word16 b1 b2)
  | .set => .set b1
  | .add => .add b1
  | .sub => .sub b1
  | .equal => .equal b1
  | .lt => .lt b1
  | .gt => .gt b1
  | .ltEqual => .ltEqual b1
  | .gtEqual => .gtEqual b1
  | .ticks => .ticks b1
  | .ticks16 => .ticks16 (word16 b1 b2)
  | .wait => .wait b1
  | .wait16 => .wait16 (word16 b1 b2)
  | .instrument => .instrument b1
  | .play => .play b1

/-- Why a byte string is no instruction. No byte VALUE is ever rejected (R76): the only reason is that the
string ends too soon. -/
inductive DecodeError where
  /-- there is no byte 0 -/
  | missingOpcode
  /-- the string ends inside the operand of this opcode -/
  | missingOperand (o : Opcode)
deriving DecidableEq, Repr

/-- Decoding under an opcode map: the first instruction of a byte string and the bytes after it
(R71, R75, R76, R119). -/
def decodeWith (m : Opcode → Byte) : List Byte → Except DecodeError (Instr × List Byte)
  | [] => .error .missingOpcode
  | b0 :: rest =>
    match opcodeOf m b0 with
    | none => .ok (.note b0, rest)
    | some o =>
      match o.operand with
      | .none => .ok (o.instr 0 0, rest)
      | .u8 =>
        match rest with
        | b1 :: rest => .ok (o.instr b1 0, rest)
        | [] => .error (.missingOperand o)
      | .u16 =>
        match rest with
        | b1 :: b2 :: rest => .ok (o.instr b1 b2, rest)
        | _ => .error (.missingOperand o)

/-- The decoder of this hardware. -/
def decode (bytes : List Byte) : Except DecodeError (Instr × List Byte) := decodeWith opc bytes

/-- The instructions of a whole byte string, one after another (R183: following each instruction's length from
offset 0). `fuel` bounds their number; with the string's length as fuel it never runs out, since every instruction
has a byte. -/
def decodeAll (m : Opcode → Byte) : Nat → List Byte → Except DecodeError (List Instr)
  | _, [] => .ok []
  | 0, _ :: _ => .error .missingOpcode
  | fuel + 1, b :: bytes =>
    match decodeWith m (b :: bytes) with
    | .error e => .error e
    | .ok (i, rest) =>
      match decodeAll m fuel rest with
      | .error e => .error e
      | .ok more => .ok (i :: more)

/-- The instructions a program's bytes spell from offset 0 (R183). -/
def decodeProgram (bytes : List Byte) : Except DecodeError (List Instr) :=
  decodeAll opc bytes.length bytes

/-! ### The encoder -/

/-- The bytes of an instruction under an opcode map (R71, R75). The codec's operations have no encoding (R78,
decision D25): no bytes. -/
def encodeWith (m : Opcode → Byte) : Instr → List Byte
  | .nop => [m .nop]
  | .halt => [m .halt]
  | .jump a => [m .jump, loByte a, hiByte a]
  | .ifJump a => [m .ifJump, loByte a, hiByte a]
  | .ifNotJump a => [m .ifNotJump, loByte a, hiByte a]
  | .syscall c => [m .syscall, loByte c, hiByte c]
  | .set v => [m .set, v]
  | .add v => [m .add, v]
  | .sub v => [m .sub, v]
  | .equal v => [m .equal, v]
  | .lt v => [m .lt, v]
  | .gt v => [m .gt, v]
  | .ltEqual v => [m .ltEqual, v]
  | .gtEqual v => [m .gtEqual, v]
  | .ticks v => [m .ticks, v]
  | .ticks16 v => [m .ticks16, loByte v, hiByte v]
  | .wait v => [m .wait, v]
  | .wait16 v => [m .wait16, loByte v, hiByte v]
  | .instrument v => [m .instrument, v]
  | .play v => [m .play, v]
  | .note b => [b]
  | .split _ _ => []
  | .join _ _ => []
  | .getAt _ _ _ => []
  | .setAt _ _ _ _ => []

/-- The encoder of this hardware. -/
def encode (i : Instr) : List Byte := encodeWith opc i

/-! ### A word of spec/opcode_table.json -/

/-- The low `8 * n` bits of `w` as `n` bytes, the most significant first. -/
def bigEndianBytes : Nat → Nat → List Byte
  | 0, _ => []
  | n + 1, w => BitVec.ofNat 8 (w / 256 ^ n) :: bigEndianBytes n w

/-- The bytes, in address order, of an instruction whose bits are `w` as spec/opcode_table.json numbers them:
the table's `fixed` entries put byte 0 in the MOST significant byte of the row (JUMP: bits 23..16 hold `0xEE`,
`l` is 15..8, `h` is 7..0; DEDUCED, log entry 15). Operand bytes the table gives no bits are zero, up to the longest
instruction, three bytes. -/
def tableBytes (nbits w : Nat) : List Byte := (bigEndianBytes ((nbits + 7) / 8) w ++ [0, 0, 0]).take 3

/-- The instruction the decoder reads from a table word. -/
def decodeTableWord (nbits w : Nat) : Option Instr :=
  match decode (tableBytes nbits w) with
  | .ok (i, _) => some i
  | .error _ => none

end Sys2Proof
end

