-- ==== Sys2Proof/Machine/State.lean ====
section
/-! DEFINITION. The state of the machine: everything spec/10_state.md R20 gives the block (the Tracks, the Grid
descriptors, the host's memory), the hidden dispatch count of R35, and the model's own fields (the verdict of the
last dispatch, the output of the last operation, the host's pending operations; DESIGN CHOICE, log entries 1 to
3). The reasons a step can stop, and the state after reset. -/

namespace Sys2Proof.Machine

/-- One Track: the twelve mutable elements of R21 to R31 and the binding `base` of R32. -/
structure Track where
  /-- address of program byte 0 (R32) -/
  base : Nat
  /-- the general register (R21) -/
  register : Byte
  /-- the program counter, an offset from `base` (R22) -/
  cursor : Word
  /-- the result of the last comparison (R23) -/
  accumulator : Bool
  /-- the sticky halt request (R24) -/
  sentHalt : Bool
  /-- request flag of SYSCALL (R25) -/
  sentSyscall : Bool
  /-- request flag of PLAY and NOTE (R25) -/
  sentPlay : Bool
  /-- ticks until the next cycle tick (R26) -/
  counter : Word
  /-- idle ticks between two cycle ticks (R27) -/
  ticksRate : Word
  /-- cycle ticks still to suppress (R28) -/
  wait : Word
  /-- last requested instrument (R29) -/
  instrument : Byte
  /-- last requested note (R30) -/
  note : Byte
  /-- last requested syscall code (R31) -/
  syscode : Word
deriving DecidableEq, Repr

/-- `reset(b)`: construction of a Track (R36; spec/70_reset_and_hazards.md R230). -/
def Track.reset (b : Nat) : Track where
  base := b
  register := 0
  cursor := 0
  accumulator := false
  sentHalt := false
  sentSyscall := false
  sentPlay := false
  counter := 0
  ticksRate := 0
  wait := 0
  instrument := 0
  note := 0
  syscode := 0

/-- The host's byte memory (R34): the listed addresses are the set `Allocated` of spec/00_scope.md R7, each with
its byte; an address that is not listed is not allocated and has no byte (DESIGN CHOICE,
log entry 5). Canonical form:
addresses strictly rising. -/
abbrev Memory := List Host.Cell

/-- The canonical form: addresses strictly rising (so no address twice). An unlisted address reads as nothing,
so no entry can equal what an unlisted address reads as. -/
abbrev Memory.wf (m : Memory) : Prop := m.Pairwise (fun a b => a.1 < b.1)

/-- The event record that `update()` returns (spec/42_vm_update.md R115). -/
structure Events where
  halt : Bool
  syscall : Option Word
  play : Option Byte
deriving DecidableEq, Repr

/-- The default record: no event (R115). -/
def Events.none : Events := { halt := false, syscall := .none, play := .none }

/-- What the last operation returned to the host (the model's own field, log entry 2): an `update()` its event
record, a codec call its result. `nothing` before the first operation, after an operation without a result
(`reset`, R230), and while an `update()` is in progress. -/
inductive Output where
  | nothing
  /-- of `update()` (R115) -/
  | events (e : Events)
  /-- of `split` (R92) -/
  | fields (l : List Nat)
  /-- of `join` (R93) -/
  | byte (b : Byte)
  /-- of `getAt` (R105) -/
  | value (n : Nat)
  /-- of `setAt` (R106) -/
  | flag (b : Bool)
deriving DecidableEq, Repr

/-- The verdict of an instruction (R14): `CONTINUE` or `END`. -/
inductive Verdict where
  | cont
  | endCycle
deriving DecidableEq, Repr

/-- Whether an `update()` is in its decode loop, and then with which dispatch count `n` (R35, R118). -/
inductive Phase where
  | between
  | decoding (n : Nat)
deriving DecidableEq, Repr

/-- The operations the host starts (R2, R6; spec/60_exceptions.md R210, R211), as inputs the step reads (log
entry 3). The Track operations act on the current Track. -/
inductive HostOp where
  /-- one tick of the current Track (R115) -/
  | update
  /-- re-initialise the current Track (R230, decision D18) -/
  | reset (b : Nat)
  /-- construct a further Track, which becomes the current one (R217) -/
  | newTrack (b : Nat)
  /-- make parked Track number `k` the current one and park the current one in its place (DESIGN CHOICE, log
  entry 16) -/
  | selectTrack (k : Nat)
  /-- create a Grid (R33) -/
  | newGrid (g : Grid)
  /-- the host stores bytes, allocating their addresses (R34, R233) -/
  | load (a : Nat) (bytes : List Byte)
  | split (b : Byte) (w : Nat)
  | join (fields : List Int) (w : Nat)
  /-- `getAt` on Grid number `k` -/
  | getAt (k : Nat) (x y : Int)
  /-- `setAt` on Grid number `k` -/
  | setAt (k : Nat) (x y value : Int)
deriving DecidableEq, Repr

/-- The whole state. -/
structure State where
  /-- the Track whose `update()` the host calls -/
  track : Track
  /-- the other Tracks (R217) -/
  parked : List Track
  /-- the Grid descriptors the host has created (R20 (b), R33) -/
  grids : List Grid
  /-- the host's memory (R34) -/
  mem : Memory
  /-- decode loop in progress, with its hidden dispatch count (R35) -/
  phase : Phase
  /-- verdict of the last dispatch (R14); the model's own field -/
  verdict : Verdict
  /-- what the last operation returned; the model's own field -/
  output : Output
  /-- operations the host has asked for, the next one first; when there is none the host calls `update()`; the
  model's own field -/
  pending : List HostOp
deriving DecidableEq, Repr

/-- What the host may read of a Track between operations (spec/60_exceptions.md R207). -/
structure Readout where
  register : Byte
  accumulator : Bool
  instrument : Byte
  note : Byte
  syscode : Word
deriving DecidableEq, Repr

/-- The hardware has no fault (R200; spec/93_implementation_defined.md, head: `fault` and `stuck` are not used),
so this type has no constructor: nobody raises one. -/
inductive Fault where
deriving DecidableEq, Repr

/-- The refusals of R201: the situations in which the spec gives an operation no result. All are safe: no claim
can be proved across one. (`program_mutated` of R201 needs another thread writing during an `update()` and cannot
arise in a machine whose operations are atomic, spec/93_implementation_defined.md U6; log entry 17.) -/
inductive Refusal where
  /-- an instruction that has no meaning in the model; raised only by an arm of `exec`; safe -/
  | notModelled (mnemonic : String)
  /-- a dispatch would read an address that is not allocated (R56); raised by `fetch`; safe -/
  | outOfAllocated
  /-- the instruction's bytes would cross offset 0xFFFF (R121); raised by `fetch`; safe -/
  | cursorStraddle
  /-- `getAt` or `setAt` on a Grid that breaks R101; raised by `execGetAt`, `execSetAt`; safe -/
  | gridIllFormed
  /-- `split` or `join` with a bad width or length (R95); raised by `execSplit`, `execJoin`; safe -/
  | codecBadShape
  /-- the host names a Track or Grid it has not constructed; the model's own, raised by `runHostOp` (log entry
  16); safe -/
  | noSuchObject
deriving DecidableEq, Repr

/-- The machine right after reset: one Track constructed by `reset(0)` (R36; the spec makes `base` an argument,
DESIGN CHOICE, log entry 4: 0), memory with nothing listed, no Grid, nothing in progress and nothing asked for. -/
def State.reset : State where
  track := Track.reset 0
  parked := []
  grids := []
  mem := []
  phase := .between
  verdict := .endCycle
  output := .nothing
  pending := []

end Sys2Proof.Machine
end

