-- ==== Sys2Proof/Machine/Ops.lean ====
section
/-! DEFINITION. The named operations over memory and over a Track, and how an instruction retires. The hardware
has no exception to take and none to return from (spec/60_exceptions.md R200, R204, R205): what stands in their
place is the delivery of an event, `State.finish`. -/

namespace Sys2Proof.Machine

/-- `GUARD` of spec/00_scope.md R7: the most dispatches of one `update()` (R118). -/
def dispatchGuard : Nat := 255

/-! ### Memory (spec/00_scope.md R11, spec/20_memory.md) -/

/-- `MemRead(a, 1)`: the byte at `a`, or none where `a` is not allocated (R34, R56). -/
def Memory.read : Memory → Nat → Option Byte
  | [], _ => none
  | (a, b) :: m, x => if x = a then some b else Memory.read m x

/-- Storing one byte, keeping the addresses strictly rising. -/
def Memory.write : Memory → Nat → Byte → Memory
  | [], x, v => [(x, v)]
  | (a, b) :: m, x, v =>
    if x < a then (x, v) :: (a, b) :: m
    else if x = a then (a, v) :: m
    else (a, b) :: Memory.write m x v

/-- `n` consecutive bytes from `a`, lowest address first, each a single-byte read in address order (R54, R55);
none if one of them is not allocated. -/
def Memory.readBytes (m : Memory) : Nat → Nat → Option (List Byte)
  | _, 0 => some []
  | a, n + 1 =>
    match Memory.read m a with
    | none => none
    | some b =>
      match Memory.readBytes m (a + 1) n with
      | none => none
      | some more => some (b :: more)

/-- The host stores bytes at `a`, `a + 1`, ... (R233 (2)). -/
def Memory.load (m : Memory) : Nat → List Byte → Memory
  | _, [] => m
  | a, b :: more => Memory.load (Memory.write m a b) (a + 1) more

/-- Every address of `[a, a + n)` is allocated (R101 (d)). -/
def Memory.covers (m : Memory) : Nat → Nat → Bool
  | _, 0 => true
  | a, n + 1 => (Memory.read m a).isSome && Memory.covers m (a + 1) n

/-! ### One Track -/

/-- `base + cursor + k`, an exact integer (R11, R32, R51). -/
def Track.address (t : Track) (k : Nat) : Nat := t.base + t.cursor.toNat + k

/-- `cursor <- (c + n) mod 2^16` (R22). -/
def Track.advance (t : Track) (n : Nat) : Track := { t with cursor := t.cursor + BitVec.ofNat 16 n }

/-- `cursor <- addr`: the target is an offset from `base` (R72, R137). -/
def Track.jumpTo (t : Track) (addr : Word) : Track := { t with cursor := addr }

def Track.setRegister (t : Track) (v : Byte) : Track := { t with register := v }

def Track.setInstrument (t : Track) (v : Byte) : Track := { t with instrument := v }

/-- `wait <- v` (R162, R163). -/
def Track.setWait (t : Track) (v : Word) : Track := { t with wait := v }

/-- `ticksRate <- v; counter <- ticksRate` (R160, R161). -/
def Track.setRate (t : Track) (v : Word) : Track := { t with ticksRate := v, counter := v }

/-- Step 2 of `update()`: one idle tick's decrement (R116, R123). -/
def Track.countDown (t : Track) : Track := { t with counter := t.counter - 1 }

/-- Step 3 of `update()`: the start of a cycle tick (R116, R125). -/
def Track.startCycle (t : Track) : Track :=
  { t with counter := t.ticksRate, sentSyscall := false, sentPlay := false }

/-- Step 4 of `update()`: a wait tick's decrement (R116, R125). -/
def Track.waitDown (t : Track) : Track := { t with wait := t.wait - 1 }

/-! ### The machine -/

/-- An instruction completes: the Track's new state and the verdict (R14). No instruction of the VM writes
anything else (R50: no VM instruction loads or stores data). -/
def State.retire (s : State) (t : Track) (v : Verdict) : State := { s with track := t, verdict := v }

/-- An operation returns to the host with its result. -/
def State.returns (s : State) (o : Output) : State := { s with output := o }

/-- The record of a decode tick (R116, R124): an event for each request flag that is up. The payload is what
the instruction just stored. -/
def Track.events (t : Track) : Events where
  halt := false
  syscall := if t.sentSyscall then some t.syscode else none
  play := if t.sentPlay then some t.note else none

/-- The decode loop ends: the dispatch count is discarded (R35) and the events of the tick are delivered (R124,
R204). -/
def State.finish (s : State) : State := { s with phase := .between, output := .events s.track.events }

/-- The host's readout of the current Track (R207). -/
def State.readout (s : State) : Readout where
  register := s.track.register
  accumulator := s.track.accumulator
  instrument := s.track.instrument
  note := s.track.note
  syscode := s.track.syscode

/-- What must hold for the very next step to fetch at `cursor`: no host operation before it, no gate closed. -/
def State.readyToFetch (s : State) : State :=
  { s with
    phase := .between
    pending := []
    track := { s.track with sentHalt := false, counter := 0, wait := 0 } }

/-- The bytes stored where the next fetch reads them, and the gates open (DESIGN CHOICE, log entry 6). -/
def State.placeAtCursor (s : State) (bytes : List Byte) : State :=
  { s.readyToFetch with mem := Memory.load s.mem (s.track.address 0) bytes }

end Sys2Proof.Machine
end

