-- ==== Sys2Proof/Machine/Codec.lean ====
section
/-! DEFINITION. The BitFieldCodec: `split` and `join` (spec/40_codec_pack_unpack.md), the Grid address decoder,
`getAt` and `setAt` (spec/41_codec_grid.md). `split`, `join` and the decoder are pure functions (R90); the calls
return their result in `output`. -/

namespace Sys2Proof.Machine

/-- The weight of field `i`: `2^(8 - W*(i+1))`; field 0 is the most significant (R91, decision D3). -/
def fieldWeight (w i : Nat) : Nat := 2 ^ (8 - w * (i + 1))

/-- Field `i` of a byte, `(b div 2^(8 - W*(i+1))) mod 2^W` (R92). -/
def fieldOf (b : Byte) (w i : Nat) : Nat := b.toNat / fieldWeight w i % 2 ^ w

/-- `split(b, W)` (R92). -/
def splitByte (b : Byte) (w : Nat) : List Nat := (List.range (fieldsPerByte w)).map (fieldOf b w)

/-- `x mod 2^W` with the non-negative `mod` of R8 (R93, decision D23). -/
def reduceField (x : Int) (w : Nat) : Nat := (x % ((2 ^ w : Nat) : Int)).toNat

/-- The sum of R93 from field number `i` on. -/
def joinFrom (w : Nat) : Nat → List Int → Nat
  | _, [] => 0
  | i, x :: more => reduceField x w * fieldWeight w i + joinFrom w (i + 1) more

/-- `join(s, W)` (R93). -/
def joinFields (fields : List Int) (w : Nat) : Byte := BitVec.ofNat 8 (joinFrom w 0 fields)

/-! ### The Grid address decoder -/

/-- Bytes per row (R103). -/
def gridStride (g : Grid) : Nat := g.width / fieldsPerByte g.fieldWidth

/-- Bytes of the whole Grid (R101 (d), R104). -/
def gridBytes (g : Grid) : Nat := g.height * gridStride g

/-- A Grid is well-formed (R101): its shape, and every one of its bytes allocated. -/
def gridOk (m : Memory) (g : Grid) : Bool := g.shapeOk && Memory.covers m g.baseOffset (gridBytes g)

/-- `(x, y)` is in bounds (R102); the test is on the integers, before any address arithmetic. -/
def inBounds (g : Grid) (x y : Int) : Bool :=
  decide (0 ≤ x ∧ x < g.width ∧ 0 ≤ y ∧ y < g.height)

/-- `byteOffset` of an in-bounds coordinate, an exact address (R103). -/
def byteOffset (g : Grid) (x y : Int) : Nat :=
  g.baseOffset + y.toNat * gridStride g + x.toNat / fieldsPerByte g.fieldWidth

/-- `fieldIndex` of an in-bounds coordinate (R103). -/
def fieldIndex (g : Grid) (x : Int) : Nat := x.toNat % fieldsPerByte g.fieldWidth

/-- A byte with field `i` replaced by `value mod 2^W`, the other fields as they were (R106). -/
def replaceField (b : Byte) (w i : Nat) (value : Int) : Byte :=
  joinFields (((splitByte b w).set i (reduceField value w)).map Int.ofNat) w

/-! ### The four calls -/

/-- `split(b, W)` (R92); a width outside {1, 2, 4} is refused (R95). -/
def execSplit (b : Byte) (w : Nat) (s : State) : Host.Outcome State Fault Refusal :=
  if validWidth w then .next (s.returns (.fields (splitByte b w))) else .refused .codecBadShape

/-- `join(s, W)` (R93); a bad width or length is refused (R95). -/
def execJoin (fields : List Int) (w : Nat) (s : State) : Host.Outcome State Fault Refusal :=
  if joinShapeOk fields w then .next (s.returns (.byte (joinFields fields w))) else .refused .codecBadShape

/-- `getAt(x, y)` (R105): on a well-formed Grid, 0 out of bounds with no access, else the field. A Grid that is
ill-formed is refused whatever the coordinate (R101, conflict C12). -/
def execGetAt (g : Grid) (x y : Int) (s : State) : Host.Outcome State Fault Refusal :=
  if gridOk s.mem g then
    if inBounds g x y then
      match Memory.read s.mem (byteOffset g x y) with
      | some b => .next (s.returns (.value ((splitByte b g.fieldWidth).getD (fieldIndex g x) 0)))
      | none => .refused .gridIllFormed
    else .next (s.returns (.value 0))
  else .refused .gridIllFormed

/-- `setAt(x, y, value)` (R106): on a well-formed Grid, `false` out of bounds with no access, else the field is
replaced, the byte stored back, and `true` returned. The Grid may overlap a program (spec/20_memory.md R65): the
premise `ProgramImmutable` (R64) is DROPPED (DESIGN CHOICE, log entry 25). -/
def execSetAt (g : Grid) (x y value : Int) (s : State) : Host.Outcome State Fault Refusal :=
  if gridOk s.mem g then
    if inBounds g x y then
      match Memory.read s.mem (byteOffset g x y) with
      | some b =>
        .next
          { s with
            mem := Memory.write s.mem (byteOffset g x y) (replaceField b g.fieldWidth (fieldIndex g x) value)
            output := .flag true }
      | none => .refused .gridIllFormed
    else .next (s.returns (.flag false))
  else .refused .gridIllFormed

end Sys2Proof.Machine
end

