-- ==== Sys2Proof/Machine/Flags.lean ====
section
/-! DEFINITION. The flags: the accumulator's five comparisons (spec/44_vm_register.md R148 to R152, unsigned by
decision D15) and the three request flags (spec/10_state.md R24, R25). There is no carry, borrow or overflow flag
(R153). -/

namespace Sys2Proof.Machine

/-- `register = v` (R148). -/
def cmpEqual (r v : Byte) : Bool := r == v

/-- `register < v`, unsigned (R149). -/
def cmpLt (r v : Byte) : Bool := decide (r.toNat < v.toNat)

/-- `register > v`, unsigned (R150). -/
def cmpGt (r v : Byte) : Bool := decide (v.toNat < r.toNat)

/-- `register <= v`, unsigned (R151). -/
def cmpLtEqual (r v : Byte) : Bool := decide (r.toNat ≤ v.toNat)

/-- `register >= v`, unsigned (R152). -/
def cmpGtEqual (r v : Byte) : Bool := decide (v.toNat ≤ r.toNat)

/-- A comparison overwrites the accumulator (R23). -/
def Track.setAccumulator (t : Track) (b : Bool) : Track := { t with accumulator := b }

/-- `sentHalt <- true` (R136). -/
def Track.requestHalt (t : Track) : Track := { t with sentHalt := true }

/-- `syscode <- code; sentSyscall <- true` (R170). -/
def Track.requestSyscall (t : Track) (code : Word) : Track := { t with syscode := code, sentSyscall := true }

/-- `note <- v; sentPlay <- true` (R172, R173). -/
def Track.requestPlay (t : Track) (v : Byte) : Track := { t with note := v, sentPlay := true }

end Sys2Proof.Machine
end

