-- ==== Sys2Proof/Machine/Control.lean ====
section
/-! DEFINITION. VM family 1, control: NOP, HALT, JUMP, IFJUMP, IFNOTJUMP (spec/43_vm_control.md). -/

namespace Sys2Proof.Machine

/-- A conditional jump (R138, R139): taken goes on in the same cycle; not taken skips the whole three-byte
instruction and ends the cycle (conflict C2, decision D5; log entry 10). -/
def State.branch (s : State) (taken : Bool) (addr : Word) : State :=
  if taken then s.retire (s.track.jumpTo addr) .cont else s.retire (s.track.advance 3) .endCycle

/-- NOP (R135). -/
def execNop (s : State) : Host.Outcome State Fault Refusal :=
  .next (s.retire (s.track.advance 1) .endCycle)

/-- HALT (R136). -/
def execHalt (s : State) : Host.Outcome State Fault Refusal :=
  .next (s.retire (s.track.requestHalt.advance 1) .endCycle)

/-- JUMP addr (R137). -/
def execJump (addr : Word) (s : State) : Host.Outcome State Fault Refusal :=
  .next (s.retire (s.track.jumpTo addr) .cont)

/-- IFJUMP addr (R138). -/
def execIfJump (addr : Word) (s : State) : Host.Outcome State Fault Refusal :=
  .next (s.branch s.track.accumulator addr)

/-- IFNOTJUMP addr (R139). -/
def execIfNotJump (addr : Word) (s : State) : Host.Outcome State Fault Refusal :=
  .next (s.branch (!s.track.accumulator) addr)

end Sys2Proof.Machine
end

