-- ==== Sys2Proof/Machine/Events.lean ====
section
/-! DEFINITION. VM family 4, host requests: SYSCALL, INSTRUMENT, PLAY, implicit NOTE (spec/46_vm_events.md). The
event itself is delivered when the decode loop ends (`State.finish`, spec/42_vm_update.md R124). -/

namespace Sys2Proof.Machine

/-- SYSCALL code (R170). -/
def execSyscall (code : Word) (s : State) : Host.Outcome State Fault Refusal :=
  .next (s.retire ((s.track.requestSyscall code).advance 3) .endCycle)

/-- INSTRUMENT v (R171). -/
def execInstrument (v : Byte) (s : State) : Host.Outcome State Fault Refusal :=
  .next (s.retire ((s.track.setInstrument v).advance 2) .cont)

/-- PLAY v (R172). -/
def execPlay (v : Byte) (s : State) : Host.Outcome State Fault Refusal :=
  .next (s.retire ((s.track.requestPlay v).advance 2) .endCycle)

/-- NOTE, the implicit instruction: the opcode byte is the datum (R173). -/
def execNote (b : Byte) (s : State) : Host.Outcome State Fault Refusal :=
  .next (s.retire ((s.track.requestPlay b).advance 1) .endCycle)

end Sys2Proof.Machine
end

