-- ==== Sys2Proof/Machine/Register.lean ====
section
/-! DEFINITION. VM family 2, register and compare: SET, ADD, SUB, EQUAL, LT, GT, LTEQUAL, GTEQUAL
(spec/44_vm_register.md). All are two bytes long and zero-tick. -/

namespace Sys2Proof.Machine

/-- The register takes a value; `accumulator` stays (R145 to R147). -/
def State.writeRegister (s : State) (v : Byte) : State :=
  s.retire ((s.track.setRegister v).advance 2) .cont

/-- The accumulator takes a comparison's result; `register` stays (R148 to R152). -/
def State.compare (s : State) (b : Bool) : State :=
  s.retire ((s.track.setAccumulator b).advance 2) .cont

/-- SET v (R145). -/
def execSet (v : Byte) (s : State) : Host.Outcome State Fault Refusal :=
  .next (s.writeRegister v)

/-- ADD v, modulo 2^8 (R146). -/
def execAdd (v : Byte) (s : State) : Host.Outcome State Fault Refusal :=
  .next (s.writeRegister (s.track.register + v))

/-- SUB v, modulo 2^8 (R147). -/
def execSub (v : Byte) (s : State) : Host.Outcome State Fault Refusal :=
  .next (s.writeRegister (s.track.register - v))

/-- EQUAL v (R148). -/
def execEqual (v : Byte) (s : State) : Host.Outcome State Fault Refusal :=
  .next (s.compare (cmpEqual s.track.register v))

/-- LT v (R149). -/
def execLt (v : Byte) (s : State) : Host.Outcome State Fault Refusal :=
  .next (s.compare (cmpLt s.track.register v))

/-- GT v (R150). -/
def execGt (v : Byte) (s : State) : Host.Outcome State Fault Refusal :=
  .next (s.compare (cmpGt s.track.register v))

/-- LTEQUAL v (R151). -/
def execLtEqual (v : Byte) (s : State) : Host.Outcome State Fault Refusal :=
  .next (s.compare (cmpLtEqual s.track.register v))

/-- GTEQUAL v (R152). -/
def execGtEqual (v : Byte) (s : State) : Host.Outcome State Fault Refusal :=
  .next (s.compare (cmpGtEqual s.track.register v))

end Sys2Proof.Machine
end

