-- ==== Sys2Proof/Machine/Operands.lean ====
section
/-! DEFINITION. Operands and their fetch: zero extension (spec/30_encoding.md R72), the straddle test
(spec/42_vm_update.md R121), and reading the instruction at `cursor` (R119; spec/20_memory.md R54, R56). -/

namespace Sys2Proof.Machine

/-- `zext_16(v)` (R9, R72, decision D16). -/
def zext16 (v : Byte) : Word := v.setWidth 16

/-- An instruction of `len` bytes at `cursor` would have a byte beyond offset 0xFFFF (R121). -/
def straddles (cursor : Word) (len : Nat) : Bool := decide (0xFFFF < cursor.toNat + len - 1)

/-- Fetch and decode (R119): byte 0 first, which alone tells the length (R73); then the straddle test (R121;
DEDUCED, log entry 12);
then every operand byte, used or not (R54, decision D24). Every byte is read from memory as it is at this dispatch:
the premise `ProgramImmutable` (spec/00_scope.md R7; spec/20_memory.md R64, decision D13) is DROPPED (DESIGN CHOICE,
log entry 25). -/
def fetch (s : State) : Except Refusal Instr :=
  match Memory.read s.mem (s.track.address 0) with
  | none => .error .outOfAllocated
  | some op =>
    if straddles s.track.cursor (lengthOf opc op) then .error .cursorStraddle
    else
      match Memory.readBytes s.mem (s.track.address 1) (lengthOf opc op - 1) with
      | none => .error .outOfAllocated
      | some operands =>
        match decode (op :: operands) with
        | .ok (i, _) => .ok i
        | .error _ => .error .outOfAllocated

end Sys2Proof.Machine
end

