-- ==== Sys2Proof/Machine/Timing.lean ====
section
/-! DEFINITION. VM family 3, tick rate and wait: TICKS, TICKS16, WAIT, WAIT16 (spec/45_vm_timing.md). All end the
cycle. -/

namespace Sys2Proof.Machine

/-- TICKS v (R160). -/
def execTicks (v : Byte) (s : State) : Host.Outcome State Fault Refusal :=
  .next (s.retire ((s.track.setRate (zext16 v)).advance 2) .endCycle)

/-- TICKS16 v (R161). -/
def execTicks16 (v : Word) (s : State) : Host.Outcome State Fault Refusal :=
  .next (s.retire ((s.track.setRate v).advance 3) .endCycle)

/-- WAIT v (R162). -/
def execWait (v : Byte) (s : State) : Host.Outcome State Fault Refusal :=
  .next (s.retire ((s.track.setWait (zext16 v)).advance 2) .endCycle)

/-- WAIT16 v (R163). -/
def execWait16 (v : Word) (s : State) : Host.Outcome State Fault Refusal :=
  .next (s.retire ((s.track.setWait v).advance 3) .endCycle)

end Sys2Proof.Machine
end

