-- ==== Sys2Proof/Machine/Dispatch.lean ====
section
/-! DEFINITION. One instruction's meaning, by constructor (spec/42_vm_update.md R120). -/

namespace Sys2Proof.Machine

def exec (i : Instr) (s : State) : Host.Outcome State Fault Refusal :=
  match i with
  | .nop => Sys2Proof.Machine.execNop s
  | .halt => Sys2Proof.Machine.execHalt s
  | .jump addr => Sys2Proof.Machine.execJump addr s
  | .ifJump addr => Sys2Proof.Machine.execIfJump addr s
  | .ifNotJump addr => Sys2Proof.Machine.execIfNotJump addr s
  | .syscall code => Sys2Proof.Machine.execSyscall code s
  | .set v => Sys2Proof.Machine.execSet v s
  | .add v => Sys2Proof.Machine.execAdd v s
  | .sub v => Sys2Proof.Machine.execSub v s
  | .equal v => Sys2Proof.Machine.execEqual v s
  | .lt v => Sys2Proof.Machine.execLt v s
  | .gt v => Sys2Proof.Machine.execGt v s
  | .ltEqual v => Sys2Proof.Machine.execLtEqual v s
  | .gtEqual v => Sys2Proof.Machine.execGtEqual v s
  | .ticks v => Sys2Proof.Machine.execTicks v s
  | .ticks16 v => Sys2Proof.Machine.execTicks16 v s
  | .wait v => Sys2Proof.Machine.execWait v s
  | .wait16 v => Sys2Proof.Machine.execWait16 v s
  | .instrument v => Sys2Proof.Machine.execInstrument v s
  | .play v => Sys2Proof.Machine.execPlay v s
  | .note b => Sys2Proof.Machine.execNote b s
  | .split b w => Sys2Proof.Machine.execSplit b w s
  | .join fields w => Sys2Proof.Machine.execJoin fields w s
  | .getAt g x y => Sys2Proof.Machine.execGetAt g x y s
  | .setAt g x y value => Sys2Proof.Machine.execSetAt g x y value s

end Sys2Proof.Machine
end

