-- ==== Sys2Proof/Machine/Update.lean ====
section
/-! DEFINITION. `update()`, the VM's step (spec/42_vm_update.md R115, R116), in two grains: `tick` and
`dispatchStep` are what the machine's step does (one tick that decodes nothing, or one dispatch of the decode
loop; DESIGN CHOICE, log entry 1), and `update` is the whole transaction written after R116. That they agree is an
obligation. -/

namespace Sys2Proof.Machine

/-- Where steps 1 to 4 of R116 leave an `update()`. -/
inductive Gate where
  /-- it has returned: a halted, idle or wait tick -/
  | returned (s : State)
  /-- it goes on to the decode loop: a decode tick -/
  | decodes (s : State)
deriving DecidableEq, Repr

/-- Steps 1 to 4 of R116 (R117, R123, R125, R203). -/
def gate (s : State) : Gate :=
  if s.track.sentHalt then
    .returned (s.returns (.events { Events.none with halt := true }))
  else if s.track.counter ≠ 0 then
    .returned { s with track := s.track.countDown, output := .events Events.none }
  else if s.track.wait ≠ 0 then
    .returned { s with track := s.track.startCycle.waitDown, output := .events Events.none }
  else
    .decodes { s with track := s.track.startCycle, output := .nothing }

/-- One dispatch: fetch, decode, execute (R119). -/
def dispatch (s : State) : Host.Outcome State Fault Refusal :=
  match fetch s with
  | .error r => .refused r
  | .ok i => exec i s

/-- After the dispatch that makes the count `n`: the loop ends on verdict `END` or when the guard is reached
(R116 step 5, R118, R122), else it goes on with that count. -/
def afterDispatch (n : Nat) (o : Host.Outcome State Fault Refusal) : Host.Outcome State Fault Refusal :=
  match o with
  | .next t =>
    if t.verdict = .endCycle ∨ dispatchGuard ≤ n then .next t.finish else .next { t with phase := .decoding n }
  | .fault r => .fault r
  | .refused r => .refused r

/-- One turn of the decode loop with dispatch count `n` (R116 step 5): at the guard no further dispatch. -/
def dispatchStep (n : Nat) (s : State) : Host.Outcome State Fault Refusal :=
  if n < dispatchGuard then afterDispatch (n + 1) (dispatch s) else .next s.finish

/-- The start of an `update()`: the gates, and on a decode tick the first dispatch. -/
def tick (s : State) : Host.Outcome State Fault Refusal :=
  match gate s with
  | .returned t => .next t
  | .decodes t => dispatchStep 0 t

/-! ### The whole transaction, after R116 -/

/-- The decode loop with `n` dispatches left before the guard (R116 step 5, R118). -/
def decodeLoop : Nat → State → Host.Outcome State Fault Refusal
  | 0, s => .next s
  | n + 1, s =>
    match dispatch s with
    | .next t => if t.verdict = .endCycle then .next t else decodeLoop n t
    | .fault r => .fault r
    | .refused r => .refused r

/-- `update()` as one transaction (R116): gates, decode loop, events of the tick. -/
def update (s : State) : Host.Outcome State Fault Refusal :=
  match gate s with
  | .returned t => .next t
  | .decodes t =>
    match decodeLoop dispatchGuard t with
    | .next u => .next u.finish
    | .fault r => .fault r
    | .refused r => .refused r

end Sys2Proof.Machine
end

