-- ==== Sys2Proof/Machine/HostOps.lean ====
section
/-! DEFINITION. The operations the host starts (spec/00_scope.md R6; spec/60_exceptions.md R208 to R211, R217;
spec/70_reset_and_hazards.md R230, R233). -/

namespace Sys2Proof.Machine

/-- `reset(b)` of the current Track: independent of its state before; no event, no memory access (R230). -/
def hostReset (b : Nat) (s : State) : Host.Outcome State Fault Refusal :=
  .next { s with track := Track.reset b, output := .nothing }

/-- A further Track is constructed and becomes the current one (R217). -/
def hostNewTrack (b : Nat) (s : State) : Host.Outcome State Fault Refusal :=
  .next { s with track := Track.reset b, parked := s.parked ++ [s.track], output := .nothing }

/-- The current Track and parked Track `k` change places (DESIGN CHOICE, log entry 16). -/
def hostSelectTrack (k : Nat) (s : State) : Host.Outcome State Fault Refusal :=
  match s.parked[k]? with
  | some t => .next { s with track := t, parked := s.parked.set k s.track, output := .nothing }
  | none => .refused .noSuchObject

/-- A Grid is created; the hardware checks nothing (R33, R101, R209 (d)). -/
def hostNewGrid (g : Grid) (s : State) : Host.Outcome State Fault Refusal :=
  .next { s with grids := s.grids ++ [g], output := .nothing }

/-- The host stores bytes, allocating their addresses (R34, R233 (1), (2)). They may be program bytes of a Track: the
premise `ProgramImmutable` (R64) is DROPPED (DESIGN CHOICE, log entry 25). -/
def hostLoad (a : Nat) (bytes : List Byte) (s : State) : Host.Outcome State Fault Refusal :=
  .next { s with mem := Memory.load s.mem a bytes, output := .nothing }

/-- An operation on Grid number `k` (R211). -/
def onGrid (k : Nat) (s : State) (op : Grid → Instr) : Host.Outcome State Fault Refusal :=
  match s.grids[k]? with
  | some g => exec (op g) s
  | none => .refused .noSuchObject

/-- One host operation, each one atomic transition (R2, R60). -/
def runHostOp (op : HostOp) (s : State) : Host.Outcome State Fault Refusal :=
  match op with
  | .update => tick s
  | .reset b => hostReset b s
  | .newTrack b => hostNewTrack b s
  | .selectTrack k => hostSelectTrack k s
  | .newGrid g => hostNewGrid g s
  | .load a bytes => hostLoad a bytes s
  | .split b w => exec (.split b w) s
  | .join fields w => exec (.join fields w) s
  | .getAt k x y => onGrid k s (fun g => .getAt g x y)
  | .setAt k x y value => onGrid k s (fun g => .setAt g x y value)

/-- The host's next operation when nothing is in progress: the first pending one, or `update()`. -/
def nextOperation (s : State) : Host.Outcome State Fault Refusal :=
  match s.pending with
  | [] => tick s
  | op :: rest => runHostOp op { s with pending := rest }

end Sys2Proof.Machine
end

