-- ==== Sys2Proof/Machine/Step.lean ====
section
/-! DEFINITION. One step of the machine: one dispatch of the decode loop of an `update()` in progress, else the
host's next operation (DESIGN CHOICE, log entries 1, 3). -/

namespace Sys2Proof.Machine

/-- One step. -/
def step (s : State) : Host.Outcome State Fault Refusal :=
  match s.phase with
  | .decoding n => dispatchStep n s
  | .between => nextOperation s

/-- `s` with a table word's bytes at `base + cursor` and the gates open, so that the next step dispatches exactly
that instruction (log entry 6). -/
def State.withFetchWord (s : State) (nbits w : Nat) : State := s.placeAtCursor (tableBytes nbits w)

end Sys2Proof.Machine
end

