-- ==== Sys2Proof/Machine/Assembler.lean ====
section
/-! DEFINITION. The Assembler's contract (spec/47_assembler.md R180 to R186): host software, no part of the
machine; what it appends to its buffer for each call, the instruction each call stands for, and the textual form
of an instruction. -/

namespace Sys2Proof.Machine

/-- One builder call (R181): the mnemonic in lower case, or `db`. Arguments are integers; each call reduces its
own (R182, decision D19). -/
inductive AsmCall where
  | nop
  | halt
  | jump (addr : Int)
  | ifjump (addr : Int)
  | ifnotjump (addr : Int)
  | syscall (code : Int)
  | set (v : Int)
  | add (v : Int)
  | sub (v : Int)
  | equal (v : Int)
  | lt (v : Int)
  | gt (v : Int)
  | ltequal (v : Int)
  | gtequal (v : Int)
  | ticks (v : Int)
  | ticks16 (v : Int)
  | wait (v : Int)
  | wait16 (v : Int)
  | instrument (v : Int)
  | play (v : Int)
  | db (bytes : List Int)
deriving DecidableEq, Repr

/-- `lo(x) = x mod 256` (R181). -/
def asmLo (x : Int) : Byte := BitVec.ofNat 8 (x % 256).toNat

/-- `hi(x) = (x div 256) mod 256` (R181). -/
def asmHi (x : Int) : Byte := BitVec.ofNat 8 (x / 256 % 256).toNat

/-- The bytes a call appends, in order (R181). -/
def AsmCall.bytes : AsmCall → List Byte
  | .nop => [opc .nop]
  | .halt => [opc .halt]
  | .jump a => [opc .jump, asmLo a, asmHi a]
  | .ifjump a => [opc .ifJump, asmLo a, asmHi a]
  | .ifnotjump a => [opc .ifNotJump, asmLo a, asmHi a]
  | .syscall c => [opc .syscall, asmLo c, asmHi c]
  | .set v => [opc .set, asmLo v]
  | .add v => [opc .add, asmLo v]
  | .sub v => [opc .sub, asmLo v]
  | .equal v => [opc .equal, asmLo v]
  | .lt v => [opc .lt, asmLo v]
  | .gt v => [opc .gt, asmLo v]
  | .ltequal v => [opc .ltEqual, asmLo v]
  | .gtequal v => [opc .gtEqual, asmLo v]
  | .ticks v => [opc .ticks, asmLo v]
  | .ticks16 v => [opc .ticks16, asmLo v, asmHi v]
  | .wait v => [opc .wait, asmLo v]
  | .wait16 v => [opc .wait16, asmLo v, asmHi v]
  | .instrument v => [opc .instrument, asmLo v]
  | .play v => [opc .play, asmLo v]
  | .db bs => bs.map asmLo

/-- A 16-bit argument is reduced modulo 65536 (R182). -/
def reduce16 (x : Int) : Word := BitVec.ofNat 16 (x % 65536).toNat

/-- An 8-bit argument is reduced modulo 256 (R182). -/
def reduce8 (x : Int) : Byte := BitVec.ofNat 8 (x % 256).toNat

/-- The instruction a call describes, operand reduced (R183); `db` describes none. -/
def AsmCall.instr : AsmCall → Option Instr
  | .nop => some .nop
  | .halt => some .halt
  | .jump a => some (.jump (reduce16 a))
  | .ifjump a => some (.ifJump (reduce16 a))
  | .ifnotjump a => some (.ifNotJump (reduce16 a))
  | .syscall c => some (.syscall (reduce16 c))
  | .set v => some (.set (reduce8 v))
  | .add v => some (.add (reduce8 v))
  | .sub v => some (.sub (reduce8 v))
  | .equal v => some (.equal (reduce8 v))
  | .lt v => some (.lt (reduce8 v))
  | .gt v => some (.gt (reduce8 v))
  | .ltequal v => some (.ltEqual (reduce8 v))
  | .gtequal v => some (.gtEqual (reduce8 v))
  | .ticks v => some (.ticks (reduce8 v))
  | .ticks16 v => some (.ticks16 (reduce16 v))
  | .wait v => some (.wait (reduce8 v))
  | .wait16 v => some (.wait16 (reduce16 v))
  | .instrument v => some (.instrument (reduce8 v))
  | .play v => some (.play (reduce8 v))
  | .db _ => none

/-- The Assembler's one piece of state: the buffer, empty at construction (R180). -/
abbrev AsmBuffer := List Byte

/-- A call appends its bytes; the bytes are in call order (R181, R185). -/
def AsmBuffer.append (buffer : AsmBuffer) (call : AsmCall) : AsmBuffer := List.append buffer call.bytes

/-- `bytecode`: the buffer after a sequence of calls (R184). -/
def bytecode (calls : List AsmCall) : AsmBuffer := calls.foldl AsmBuffer.append []

/-- `len()`: the offset at which the next call's opcode byte will lie (R184). -/
def bytecodeLen (calls : List AsmCall) : Nat := (bytecode calls).length

/-- The textual form of R186: mnemonic in capitals, then the operand, decimal. The codec has no assembly form. -/
def instrText : Instr → String
  | .nop => "NOP"
  | .halt => "HALT"
  | .jump a => "JUMP " ++ toString a.toNat
  | .ifJump a => "IFJUMP " ++ toString a.toNat
  | .ifNotJump a => "IFNOTJUMP " ++ toString a.toNat
  | .syscall c => "SYSCALL " ++ toString c.toNat
  | .set v => "SET " ++ toString v.toNat
  | .add v => "ADD " ++ toString v.toNat
  | .sub v => "SUB " ++ toString v.toNat
  | .equal v => "EQUAL " ++ toString v.toNat
  | .lt v => "LT " ++ toString v.toNat
  | .gt v => "GT " ++ toString v.toNat
  | .ltEqual v => "LTEQUAL " ++ toString v.toNat
  | .gtEqual v => "GTEQUAL " ++ toString v.toNat
  | .ticks v => "TICKS " ++ toString v.toNat
  | .ticks16 v => "TICKS16 " ++ toString v.toNat
  | .wait v => "WAIT " ++ toString v.toNat
  | .wait16 v => "WAIT16 " ++ toString v.toNat
  | .instrument v => "INSTRUMENT " ++ toString v.toNat
  | .play v => "PLAY " ++ toString v.toNat
  | .note b => "NOTE " ++ toString b.toNat
  | .split _ _ => ""
  | .join _ _ => ""
  | .getAt _ _ _ => ""
  | .setAt _ _ _ _ => ""

end Sys2Proof.Machine
end

