-- ==== Sys2Proof/Safety.lean ====
section
/-! DEFINITION. The terms in which claims about the machine are stated: runs, the kinds of tick, frames, the
invariant of spec/10_state.md R38, the verdict and event tables of spec/42_vm_update.md R120 and R124. -/

namespace Sys2Proof.Safety

open Sys2Proof Sys2Proof.Machine

/-- `k` steps of the machine, stopping at the first refusal (`Host.Core.run` of `Sys2Proof.core`, written over
`step` itself). -/
def runs : Nat → State → Host.Outcome State Fault Refusal
  | 0, s => .next s
  | k + 1, s =>
    match step s with
    | .next t => runs k t
    | .fault r => .fault r
    | .refused r => .refused r

/-! ### Kinds of state -/

/-- Nothing is in progress and the host's next operation is `update()`. -/
def Quiet (s : State) : Prop := s.phase = .between ∧ s.pending = []

/-- The terminal state of R212: exactly `sentHalt = true`. -/
def Terminal (s : State) : Prop := s.track.sentHalt = true

/-- The next step is the first dispatch of a decode tick (R16, R116). -/
def Ready (s : State) : Prop :=
  Quiet s ∧ s.track.sentHalt = false ∧ s.track.counter = 0 ∧ s.track.wait = 0

/-- The state in which a decode tick makes its first dispatch (R116 step 3). -/
def atLoopEntry (s : State) : State :=
  { s with track := { s.track with counter := s.track.ticksRate, sentSyscall := false, sentPlay := false },
           output := .nothing }

/-- The instruction bytes stand at `base + cursor` and do not cross offset 0xFFFF (R56, R121). -/
def BytesAtCursor (s : State) (bytes : List Byte) : Prop :=
  (∀ k b, bytes[k]? = some b → Memory.read s.mem (s.track.base + s.track.cursor.toNat + k) = some b) ∧
    s.track.cursor.toNat + bytes.length ≤ 0x10000

/-! ### Encodings in the spec's own words (R52, R72) -/

/-- Bits 7:0. -/
def lowByte (w : Word) : Byte := BitVec.ofNat 8 (w.toNat % 256)

/-- Bits 15:8. -/
def highByte (w : Word) : Byte := BitVec.ofNat 8 (w.toNat / 256)

/-- The instruction's bytes are exactly these, and they decode to it whatever follows. -/
def Encodes (i : Instr) (bytes : List Byte) : Prop :=
  encode i = bytes ∧ ∀ rest, decode (bytes ++ rest) = .ok (i, rest)

/-! ### Grids -/

/-- R101 (a), (c), (d) on a descriptor and a memory. -/
def WellFormedGrid (m : Memory) (g : Grid) : Prop :=
  (g.fieldWidth = 1 ∨ g.fieldWidth = 2 ∨ g.fieldWidth = 4) ∧ g.width % (8 / g.fieldWidth) = 0 ∧
    ∀ a, g.baseOffset ≤ a → a < g.baseOffset + g.height * (g.width / (8 / g.fieldWidth)) →
      (Memory.read m a).isSome = true

/-- R102. -/
def InGrid (g : Grid) (x y : Int) : Prop :=
  0 ≤ x ∧ x < (g.width : Int) ∧ 0 ≤ y ∧ y < (g.height : Int)

/-! ### Frames -/

/-- `t` is `s` but for the current Track and the verdict: memory (every byte), the other Tracks, the Grids, the
loop's count, the output and the host's pending operations are as they were. -/
def OnlyTrack (s t : State) : Prop :=
  t.mem = s.mem ∧ (∀ a, Memory.read t.mem a = Memory.read s.mem a) ∧ t.parked = s.parked ∧ t.grids = s.grids ∧
    t.phase = s.phase ∧ t.output = s.output ∧ t.pending = s.pending

/-- `cursor` has advanced by `n` modulo 2^16 (R22). -/
def CursorAdvanced (n : Nat) (s t : State) : Prop :=
  t.track.cursor.toNat = (s.track.cursor.toNat + n) % 65536

/-! ### The tables of R120 and R124 -/

/-- The verdict of an instruction (R120), given the accumulator. -/
def verdictOf (acc : Bool) : Instr → Verdict
  | .nop => .endCycle
  | .halt => .endCycle
  | .jump _ => .cont
  | .ifJump _ => if acc then .cont else .endCycle
  | .ifNotJump _ => if acc then .endCycle else .cont
  | .syscall _ => .endCycle
  | .set _ => .cont
  | .add _ => .cont
  | .sub _ => .cont
  | .equal _ => .cont
  | .lt _ => .cont
  | .gt _ => .cont
  | .ltEqual _ => .cont
  | .gtEqual _ => .cont
  | .ticks _ => .endCycle
  | .ticks16 _ => .endCycle
  | .wait _ => .endCycle
  | .wait16 _ => .endCycle
  | .instrument _ => .cont
  | .play _ => .endCycle
  | .note _ => .endCycle
  | .split _ _ => .endCycle
  | .join _ _ => .endCycle
  | .getAt _ _ _ => .endCycle
  | .setAt _ _ _ _ => .endCycle

/-- The event an instruction asks the host for (R170, R172, R173): none but for SYSCALL, PLAY and NOTE. -/
def requestOf : Instr → Events
  | .syscall code => { halt := false, syscall := some code, play := none }
  | .play v => { halt := false, syscall := none, play := some v }
  | .note b => { halt := false, syscall := none, play := some b }
  | _ => Events.none

/-! ### The invariant (R38) -/

/-- What holds of every Track between operations: the two request flags are never both up (R25, R126), the
counter never exceeds the rate it was loaded from, and a halted Track has no request up and its counter at the
rate (R136). -/
def TrackInv (t : Track) : Prop :=
  ¬(t.sentSyscall = true ∧ t.sentPlay = true) ∧ t.counter.toNat ≤ t.ticksRate.toNat ∧
    (t.sentHalt = true → t.sentSyscall = false ∧ t.sentPlay = false ∧ t.counter = t.ticksRate)

/-- What holds of the current Track inside the decode loop: all instructions so far were zero-tick (R118, R122). -/
def LoopInv (s : State) (n : Nat) : Prop :=
  1 ≤ n ∧ n < 255 ∧ s.track.sentHalt = false ∧ s.track.sentSyscall = false ∧ s.track.sentPlay = false ∧
    s.track.counter = s.track.ticksRate ∧ s.track.wait = 0 ∧ s.verdict = .cont ∧ s.output = .nothing

/-- The invariant of the machine. -/
def MachineInv (s : State) : Prop :=
  Memory.wf s.mem ∧ TrackInv s.track ∧ (∀ t ∈ s.parked, TrackInv t) ∧
    ∀ n, s.phase = .decoding n → LoopInv s n

/-! ### Chains of dispatches -/

/-- `k` dispatches one after another, whatever their verdicts. -/
def dispatches : Nat → State → Host.Outcome State Fault Refusal
  | 0, s => .next s
  | k + 1, s =>
    match dispatch s with
    | .next t => dispatches k t
    | .fault r => .fault r
    | .refused r => .refused r

end Sys2Proof.Safety
end

