-- ==== Sys2Proof/Certificates/Slice0/Obligations.lean ====
section
/-! DEFINITION. The statements for the provers, from the numbered rules of spec/. -/

open Sys2Proof Sys2Proof.Machine Sys2Proof.Safety

/-! ### Encoding -/

/-- Decoding undoes encoding, for every injective opcode map (R74: `OPC` may be any injective map). -/
def Obligations.DecodeOfEncode : Prop :=
  ∀ m : Opcode → Byte, Function.Injective m → ∀ i : Instr, i.isVm = true → i.wfWith m = true →
    ∀ rest, decodeWith m (encodeWith m i ++ rest) = .ok (i, rest)

/-- Encoding undoes decoding: whatever a byte string decodes to is a well-formed VM instruction whose bytes are
exactly those consumed. -/
def Obligations.EncodeOfDecode : Prop :=
  ∀ (m : Opcode → Byte) (bytes rest : List Byte) (i : Instr), decodeWith m bytes = .ok (i, rest) →
    i.isVm = true ∧ i.wfWith m = true ∧ encodeWith m i ++ rest = bytes

/-- R76: every byte value is an instruction; below `0xEC` it is NOTE of that byte, from `0xEC` on it is not NOTE. -/
def Obligations.EveryByteDecodes : Prop :=
  ∀ (b b1 b2 : Byte) (rest : List Byte), ∃ i left,
    decode (b :: b1 :: b2 :: rest) = .ok (i, left) ∧ i.isVm = true ∧
      (b.toNat < 0xEC → i = .note b) ∧ (0xEC ≤ b.toNat → ∀ c, i ≠ .note c)

/-- R73: byte 0 alone tells the length. -/
def Obligations.LengthFromByteZero : Prop :=
  ∀ (b : Byte) (operands : List Byte) (i : Instr) (rest : List Byte),
    decode (b :: operands) = .ok (i, rest) →
      (operands.length + 1 = rest.length + 1 ↔
        b.toNat < 0xEC ∨ b = 0xEC ∨ b = 0xED) ∧
      (operands.length + 1 = rest.length + 2 ↔
        (0xF2 ≤ b.toNat ∧ b.toNat ≤ 0xFA) ∨ b = 0xFC ∨ b = 0xFE ∨ b = 0xFF) ∧
      (operands.length + 1 = rest.length + 3 ↔
        (0xEE ≤ b.toNat ∧ b.toNat ≤ 0xF1) ∨ b = 0xFB ∨ b = 0xFD)

/-- Words written out from the encodings of R75 decode to the instructions they stand for. -/
def Obligations.WordsFromTheTable : Prop :=
  decode [0xEE, 0x34, 0x12] = .ok (.jump 0x1234, []) ∧
  decode [0xF3, 0x03, 0xED] = .ok (.add 3, [0xED]) ∧
  decode [0xFB, 0x00, 0x01] = .ok (.ticks16 256, []) ∧
  decode [0xFF, 0x3C] = .ok (.play 60, []) ∧
  decode [0xEB] = .ok (.note 235, []) ∧
  decode [0xEC] = .ok (.nop, [])

/-! ### The step -/

/-- The step runs the decoded instruction: inside the decode loop, and as the first dispatch of a decode tick,
where step 3 of R116 comes first. `afterDispatch` then ends or continues the loop. (One dispatch a step is the
model's own convention, log entry 1.) -/
def Obligations.StepRunsDecodedInstruction : Prop :=
  ∀ (s : State) (bytes : List Byte) (i : Instr), decode bytes = .ok (i, []) → BytesAtCursor s bytes →
    (∀ n, s.phase = .decoding n → n < 255 → step s = afterDispatch (n + 1) (exec i s)) ∧
    (Ready s → step s = afterDispatch 1 (exec i (atLoopEntry s)))

/-- R120, R122, R124: after the instruction a step has run, the loop ends on verdict END or at the 255th dispatch
and the tick's events are delivered; else it goes on with the count one higher. (One dispatch a step is the
model's own convention, log entry 1.) -/
def Obligations.DispatchFollowsVerdictTable : Prop :=
  ∀ (s : State) (n : Nat) (i : Instr), s.phase = .decoding n → n < 255 →
    s.track.sentSyscall = false → s.track.sentPlay = false →
    i.isVm = true → i.wf = true → BytesAtCursor s (encode i) →
    ∃ t u, exec i s = .next t ∧ t.verdict = verdictOf s.track.accumulator i ∧ step s = .next u ∧
      u.track = t.track ∧ u.mem = t.mem ∧
      (if verdictOf s.track.accumulator i = .endCycle ∨ n + 1 = 255 then
        u.phase = .between ∧ u.output = .events (requestOf i)
      else u.phase = .decoding (n + 1) ∧ u.output = s.output)

/-- R121: an instruction whose bytes would cross offset 0xFFFF is refused, whether or not its operand bytes are
allocated (the order of the two tests is DEDUCED, log entry 12). -/
def Obligations.StraddleIsRefused : Prop :=
  ∀ (s : State) (op : Byte), Memory.read s.mem (s.track.base + s.track.cursor.toNat) = some op →
    ((s.track.cursor.toNat = 0xFFFF ∧ 0xEE ≤ op.toNat) ∨
      (s.track.cursor.toNat = 0xFFFE ∧ ((0xEE ≤ op.toNat ∧ op.toNat ≤ 0xF1) ∨ op = 0xFB ∨ op = 0xFD))) →
    dispatch s = .refused .cursorStraddle

/-- R56, R54: a dispatch that would read an address outside `Allocated` is refused: the opcode's byte, or an
operand byte, used or not. -/
def Obligations.UnallocatedFetchIsRefused : Prop :=
  ∀ s : State,
    (Memory.read s.mem (s.track.base + s.track.cursor.toNat) = none → dispatch s = .refused .outOfAllocated) ∧
    (∀ (op : Byte) (k : Nat), Memory.read s.mem (s.track.base + s.track.cursor.toNat) = some op →
      k < lengthOf opc op → s.track.cursor.toNat + lengthOf opc op ≤ 0x10000 →
      Memory.read s.mem (s.track.base + s.track.cursor.toNat + k) = none →
      dispatch s = .refused .outOfAllocated)

/-- R129: the only ways an `update()` has no result are the two refusals. -/
def Obligations.UpdateRefusesOnlyTwoWays : Prop :=
  ∀ (s : State) (r : Refusal), update s = .refused r →
    (r = .outOfAllocated ∨ r = .cursorStraddle) ∧
    ((∀ o, o ≤ 0xFFFF → (Memory.read s.mem (s.track.base + o)).isSome = true) → r = .cursorStraddle)

/-! ### VM family 1: control -/

/-- R135: the cursor moves, the cycle ends, and no event is emitted. -/
def Obligations.NopAdvancesAndEnds : Prop :=
  Encodes .nop [0xEC] ∧
  ∀ s, ∃ t, exec .nop s = .next t ∧ OnlyTrack s t ∧ t.verdict = .endCycle ∧ CursorAdvanced 1 s t ∧
    t.track = { s.track with cursor := t.track.cursor } ∧
    (s.track.sentSyscall = false → s.track.sentPlay = false →
      ∀ n, afterDispatch n (exec .nop s) =
        .next { t with phase := .between, output := .events Events.none })

/-- R136: the flag, the cursor, no event in this `update()`, and the halt event in every later one. -/
def Obligations.HaltSetsSentHalt : Prop :=
  Encodes .halt [0xED] ∧
  (∀ s, ∃ t, exec .halt s = .next t ∧ OnlyTrack s t ∧ t.verdict = .endCycle ∧ CursorAdvanced 1 s t ∧
    t.track = { s.track with sentHalt := true, cursor := t.track.cursor } ∧
    (s.track.sentSyscall = false → s.track.sentPlay = false →
      ∀ n, afterDispatch n (exec .halt s) =
        .next { t with phase := .between, output := .events Events.none })) ∧
  (∀ s, s.track.sentHalt = true →
    update s = .next { s with output := .events { halt := true, syscall := none, play := none } })

/-- R137. -/
def Obligations.JumpSetsCursor : Prop :=
  ∀ a : Word, Encodes (.jump a) [0xEE, lowByte a, highByte a] ∧
  ∀ s, ∃ t, exec (.jump a) s = .next t ∧ OnlyTrack s t ∧ t.verdict = .cont ∧
    t.track = { s.track with cursor := a }

/-- R138: taken goes on at the target, not taken skips three bytes and ends the cycle. -/
def Obligations.IfJumpFollowsAccumulator : Prop :=
  ∀ a : Word, Encodes (.ifJump a) [0xEF, lowByte a, highByte a] ∧
  ∀ s, ∃ t, exec (.ifJump a) s = .next t ∧ OnlyTrack s t ∧
    t.track = { s.track with cursor := t.track.cursor } ∧
    (if s.track.accumulator = true then t.track.cursor = a ∧ t.verdict = .cont
     else CursorAdvanced 3 s t ∧ t.verdict = .endCycle)

/-- R139. -/
def Obligations.IfNotJumpFollowsAccumulator : Prop :=
  ∀ a : Word, Encodes (.ifNotJump a) [0xF0, lowByte a, highByte a] ∧
  ∀ s, ∃ t, exec (.ifNotJump a) s = .next t ∧ OnlyTrack s t ∧
    t.track = { s.track with cursor := t.track.cursor } ∧
    (if s.track.accumulator = false then t.track.cursor = a ∧ t.verdict = .cont
     else CursorAdvanced 3 s t ∧ t.verdict = .endCycle)

/-! ### VM family 2: register and compare -/

/-- R145. -/
def Obligations.SetLoadsRegister : Prop :=
  ∀ v : Byte, Encodes (.set v) [0xF2, v] ∧
  ∀ s, ∃ t, exec (.set v) s = .next t ∧ OnlyTrack s t ∧ t.verdict = .cont ∧ CursorAdvanced 2 s t ∧
    t.track = { s.track with register := v, cursor := t.track.cursor }

/-- R146: addition modulo 256. -/
def Obligations.AddWrapsModulo256 : Prop :=
  ∀ v : Byte, Encodes (.add v) [0xF3, v] ∧
  ∀ s, ∃ t, exec (.add v) s = .next t ∧ OnlyTrack s t ∧ t.verdict = .cont ∧ CursorAdvanced 2 s t ∧
    t.track = { s.track with register := t.track.register, cursor := t.track.cursor } ∧
    t.track.register.toNat = (s.track.register.toNat + v.toNat) % 256

/-- R147: subtraction modulo 256, with the non-negative `mod` of R8. -/
def Obligations.SubWrapsModulo256 : Prop :=
  ∀ v : Byte, Encodes (.sub v) [0xF4, v] ∧
  ∀ s, ∃ t, exec (.sub v) s = .next t ∧ OnlyTrack s t ∧ t.verdict = .cont ∧ CursorAdvanced 2 s t ∧
    t.track = { s.track with register := t.track.register, cursor := t.track.cursor } ∧
    (t.track.register.toNat : Int) = ((s.track.register.toNat : Int) - (v.toNat : Int)) % 256

/-- R148 to R152: the five compares write `accumulator` and nothing else but `cursor`. -/
def Obligations.ComparesWriteAccumulator : Prop :=
  ∀ v : Byte,
  (Encodes (.equal v) [0xF5, v] ∧ Encodes (.lt v) [0xF6, v] ∧ Encodes (.gt v) [0xF7, v] ∧
    Encodes (.ltEqual v) [0xF8, v] ∧ Encodes (.gtEqual v) [0xF9, v]) ∧
  ∀ (s : State) (i : Instr) (p : Bool),
    ((i = .equal v ∧ (p = true ↔ s.track.register.toNat = v.toNat)) ∨
      (i = .lt v ∧ (p = true ↔ s.track.register.toNat < v.toNat)) ∨
      (i = .gt v ∧ (p = true ↔ s.track.register.toNat > v.toNat)) ∨
      (i = .ltEqual v ∧ (p = true ↔ s.track.register.toNat ≤ v.toNat)) ∨
      (i = .gtEqual v ∧ (p = true ↔ s.track.register.toNat ≥ v.toNat))) →
    ∃ t, exec i s = .next t ∧ OnlyTrack s t ∧ t.verdict = .cont ∧ CursorAdvanced 2 s t ∧
      t.track = { s.track with accumulator := p, cursor := t.track.cursor }

/-- R154: the outcome of every compare for the three orderings of `register` against `v`. -/
def Obligations.CompareOutcomeTable : Prop :=
  ∀ (s : State) (v : Byte), ∃ te tl tg tle tge,
    exec (.equal v) s = .next te ∧ exec (.lt v) s = .next tl ∧ exec (.gt v) s = .next tg ∧
    exec (.ltEqual v) s = .next tle ∧ exec (.gtEqual v) s = .next tge ∧
    [te.track.accumulator, tl.track.accumulator, tg.track.accumulator, tle.track.accumulator,
      tge.track.accumulator] =
      (if s.track.register.toNat < v.toNat then [false, true, false, true, false]
       else if s.track.register.toNat = v.toNat then [true, false, false, true, true]
       else [false, false, true, false, true])

/-! ### VM family 3: tick rate and wait -/

/-- R160: the zero-extended operand goes into `ticksRate` and `counter`. -/
def Obligations.TicksSetsRateAndCounter : Prop :=
  ∀ v : Byte, Encodes (.ticks v) [0xFA, v] ∧
  ∀ s, ∃ t, exec (.ticks v) s = .next t ∧ OnlyTrack s t ∧ t.verdict = .endCycle ∧ CursorAdvanced 2 s t ∧
    t.track = { s.track with ticksRate := t.track.ticksRate, counter := t.track.ticksRate,
                             cursor := t.track.cursor } ∧
    t.track.ticksRate.toNat = v.toNat

/-- R161. -/
def Obligations.Ticks16SetsRateAndCounter : Prop :=
  ∀ v : Word, Encodes (.ticks16 v) [0xFB, lowByte v, highByte v] ∧
  ∀ s, ∃ t, exec (.ticks16 v) s = .next t ∧ OnlyTrack s t ∧ t.verdict = .endCycle ∧ CursorAdvanced 3 s t ∧
    t.track = { s.track with ticksRate := v, counter := v, cursor := t.track.cursor }

/-- R162: the zero-extended operand overwrites `wait`. -/
def Obligations.WaitSetsWait : Prop :=
  ∀ v : Byte, Encodes (.wait v) [0xFC, v] ∧
  ∀ s, ∃ t, exec (.wait v) s = .next t ∧ OnlyTrack s t ∧ t.verdict = .endCycle ∧ CursorAdvanced 2 s t ∧
    t.track = { s.track with wait := t.track.wait, cursor := t.track.cursor } ∧
    t.track.wait.toNat = v.toNat

/-- R163. -/
def Obligations.Wait16SetsWait : Prop :=
  ∀ v : Word, Encodes (.wait16 v) [0xFD, lowByte v, highByte v] ∧
  ∀ s, ∃ t, exec (.wait16 v) s = .next t ∧ OnlyTrack s t ∧ t.verdict = .endCycle ∧ CursorAdvanced 3 s t ∧
    t.track = { s.track with wait := v, cursor := t.track.cursor }

/-! ### VM family 4: host requests -/

/-- R170: the payload, the flag, and the event of this tick. -/
def Obligations.SyscallRequestsHost : Prop :=
  ∀ c : Word, Encodes (.syscall c) [0xF1, lowByte c, highByte c] ∧
  ∀ s, ∃ t, exec (.syscall c) s = .next t ∧ OnlyTrack s t ∧ t.verdict = .endCycle ∧ CursorAdvanced 3 s t ∧
    t.track = { s.track with syscode := c, sentSyscall := true, cursor := t.track.cursor } ∧
    (s.track.sentPlay = false → ∀ n, afterDispatch n (exec (.syscall c) s) =
      .next { t with phase := .between, output := .events { halt := false, syscall := some c, play := none } })

/-- R171. -/
def Obligations.InstrumentIsZeroTick : Prop :=
  ∀ v : Byte, Encodes (.instrument v) [0xFE, v] ∧
  ∀ s, ∃ t, exec (.instrument v) s = .next t ∧ OnlyTrack s t ∧ t.verdict = .cont ∧ CursorAdvanced 2 s t ∧
    t.track = { s.track with instrument := v, cursor := t.track.cursor }

/-- R172. -/
def Obligations.PlayRequestsNote : Prop :=
  ∀ v : Byte, Encodes (.play v) [0xFF, v] ∧
  ∀ s, ∃ t, exec (.play v) s = .next t ∧ OnlyTrack s t ∧ t.verdict = .endCycle ∧ CursorAdvanced 2 s t ∧
    t.track = { s.track with note := v, sentPlay := true, cursor := t.track.cursor } ∧
    (s.track.sentSyscall = false → ∀ n, afterDispatch n (exec (.play v) s) =
      .next { t with phase := .between, output := .events { halt := false, syscall := none, play := some v } })

/-- R173: every byte that is no opcode plays itself and is one byte long. -/
def Obligations.NoteRequestsItself : Prop :=
  ∀ b : Byte, (b.toNat < 0xEC → Encodes (.note b) [b]) ∧
  ∀ s, ∃ t, exec (.note b) s = .next t ∧ OnlyTrack s t ∧ t.verdict = .endCycle ∧ CursorAdvanced 1 s t ∧
    t.track = { s.track with note := b, sentPlay := true, cursor := t.track.cursor } ∧
    (s.track.sentSyscall = false → ∀ n, afterDispatch n (exec (.note b) s) =
      .next { t with phase := .between, output := .events { halt := false, syscall := none, play := some b } })

/-! ### The codec -/

/-- R92. -/
def Obligations.SplitReturnsFields : Prop :=
  ∀ (b : Byte) (w : Nat) (s : State), w = 1 ∨ w = 2 ∨ w = 4 →
    ∃ l : List Nat, exec (.split b w) s = .next { s with output := .fields l } ∧ l.length = 8 / w ∧
      ∀ i, i < 8 / w →
        l[i]? = some (b.toNat / 2 ^ (8 - w * (i + 1)) % 2 ^ w) ∧ l.getD i 0 < 2 ^ w

/-- R93: each element reduced modulo `2^W` on its own, the first the most significant. -/
def Obligations.JoinReturnsByte : Prop :=
  ∀ (f : List Int) (w : Nat) (s : State), w = 1 ∨ w = 2 ∨ w = 4 → f.length = 8 / w →
    ∃ b : Byte, exec (.join f w) s = .next { s with output := .byte b } ∧
      b.toNat = ∑ i ∈ Finset.range (8 / w), (f.getD i 0 % 2 ^ w).toNat * 2 ^ (8 - w * (i + 1))

/-- R94, first law: `join(split(b, W), W) = b`. -/
def Obligations.JoinOfSplit : Prop :=
  ∀ (b : Byte) (w : Nat) (s : State), w = 1 ∨ w = 2 ∨ w = 4 →
    ∃ l : List Nat, exec (.split b w) s = .next { s with output := .fields l } ∧
      exec (.join (l.map Int.ofNat) w) s = .next { s with output := .byte b }

/-- R94, second law: `split(join(s, W), W)[i] = s[i] mod 2^W`. -/
def Obligations.SplitOfJoin : Prop :=
  ∀ (f : List Int) (w : Nat) (s : State), w = 1 ∨ w = 2 ∨ w = 4 → f.length = 8 / w →
    ∃ b : Byte, exec (.join f w) s = .next { s with output := .byte b } ∧
      exec (.split b w) s = .next { s with output := .fields (f.map (fun x => (x % 2 ^ w).toNat)) }

/-- R95: a width outside {1, 2, 4}, or a sequence of the wrong length, has no meaning. -/
def Obligations.BadCodecShapeIsRefused : Prop :=
  ∀ (w : Nat) (s : State),
    (¬(w = 1 ∨ w = 2 ∨ w = 4) →
      (∀ b, exec (.split b w) s = .refused .codecBadShape) ∧
      (∀ f, exec (.join f w) s = .refused .codecBadShape)) ∧
    (∀ f, (w = 1 ∨ w = 2 ∨ w = 4) → f.length ≠ 8 / w → exec (.join f w) s = .refused .codecBadShape)

/-- R101: `getAt` and `setAt` are refused on a Grid that is not well-formed, whatever the coordinate; a Grid of
a good shape with width or height 0 is well-formed and has no in-bounds coordinate. -/
def Obligations.IllFormedGridIsRefused : Prop :=
  ∀ (s : State) (g : Grid) (x y v : Int),
    (¬WellFormedGrid s.mem g →
      exec (.getAt g x y) s = .refused .gridIllFormed ∧ exec (.setAt g x y v) s = .refused .gridIllFormed) ∧
    ((g.fieldWidth = 1 ∨ g.fieldWidth = 2 ∨ g.fieldWidth = 4) → g.width % (8 / g.fieldWidth) = 0 →
      g.width = 0 ∨ g.height = 0 →
      exec (.getAt g x y) s = .next { s with output := .value 0 } ∧
      exec (.setAt g x y v) s = .next { s with output := .flag false })

/-- R104: on a Grid whose shape is well-formed the decoder is a bijection from the in-bounds coordinates onto the
pairs of a byte of the Grid and a field index. -/
def Obligations.GridDecoderIsBijective : Prop :=
  ∀ g : Grid, g.fieldWidth = 1 ∨ g.fieldWidth = 2 ∨ g.fieldWidth = 4 → g.width % (8 / g.fieldWidth) = 0 →
    (∀ x y, InGrid g x y →
      g.baseOffset ≤ byteOffset g x y ∧
      byteOffset g x y < g.baseOffset + g.height * (g.width / (8 / g.fieldWidth)) ∧
      fieldIndex g x < 8 / g.fieldWidth) ∧
    (∀ a i, g.baseOffset ≤ a → a < g.baseOffset + g.height * (g.width / (8 / g.fieldWidth)) →
      i < 8 / g.fieldWidth →
      ∃ x y, InGrid g x y ∧ byteOffset g x y = a ∧ fieldIndex g x = i ∧
        ∀ x' y', InGrid g x' y' → byteOffset g x' y' = a → fieldIndex g x' = i → x' = x ∧ y' = y)

/-- R103: the address and the field index of an in-bounds coordinate, in the rule's integers. -/
def Obligations.GridDecoderFormula : Prop :=
  ∀ (g : Grid) (x y : Int), InGrid g x y →
    (byteOffset g x y : Int) =
      g.baseOffset + y * ((g.width : Int) / ((8 / g.fieldWidth : Nat) : Int)) +
        x / ((8 / g.fieldWidth : Nat) : Int) ∧
    (fieldIndex g x : Int) = x % ((8 / g.fieldWidth : Nat) : Int)

/-- R105: 0 out of bounds, else the field the decoder names; nothing but the result is written. -/
def Obligations.GetAtReadsField : Prop :=
  ∀ (s : State) (g : Grid) (x y : Int), WellFormedGrid s.mem g →
    (¬InGrid g x y → exec (.getAt g x y) s = .next { s with output := .value 0 }) ∧
    (InGrid g x y → ∃ b n, Memory.read s.mem (byteOffset g x y) = some b ∧
      n = b.toNat / 2 ^ (8 - g.fieldWidth * (fieldIndex g x + 1)) % 2 ^ g.fieldWidth ∧
      exec (.getAt g x y) s = .next { s with output := .value n })

/-- R106: `false` and no write out of bounds; else `true`, and the one byte at `byteOffset` is stored back with
the one field replaced by `value mod 2^W`; every other byte reads as before. -/
def Obligations.SetAtReplacesField : Prop :=
  ∀ (s : State) (g : Grid) (x y v : Int), WellFormedGrid s.mem g →
    (¬InGrid g x y → exec (.setAt g x y v) s = .next { s with output := .flag false }) ∧
    (InGrid g x y → ∃ b t b', Memory.read s.mem (byteOffset g x y) = some b ∧
      exec (.setAt g x y v) s = .next t ∧ t = { s with mem := t.mem, output := .flag true } ∧
      (∀ a, a ≠ byteOffset g x y → Memory.read t.mem a = Memory.read s.mem a) ∧
      Memory.read t.mem (byteOffset g x y) = some b' ∧
      ∀ i, i < 8 / g.fieldWidth →
        b'.toNat / 2 ^ (8 - g.fieldWidth * (i + 1)) % 2 ^ g.fieldWidth =
          if i = fieldIndex g x then (v % 2 ^ g.fieldWidth).toNat
          else b.toNat / 2 ^ (8 - g.fieldWidth * (i + 1)) % 2 ^ g.fieldWidth)

/-- R107: after `setAt`, `getAt` gives the value set, every other in-bounds coordinate reads as before, and out of
bounds nothing happens. -/
def Obligations.GetAtAfterSetAt : Prop :=
  ∀ (s : State) (g : Grid) (x y v : Int), WellFormedGrid s.mem g →
    (InGrid g x y → ∃ t, exec (.setAt g x y v) s = .next t ∧
      exec (.getAt g x y) t = .next { t with output := .value (v % 2 ^ g.fieldWidth).toNat } ∧
      (∀ x' y', InGrid g x' y' → ¬(x' = x ∧ y' = y) → ∃ n,
        exec (.getAt g x' y') s = .next { s with output := .value n } ∧
        exec (.getAt g x' y') t = .next { t with output := .value n }) ∧
      ∀ a, a ≠ byteOffset g x y → Memory.read t.mem a = Memory.read s.mem a) ∧
    (¬InGrid g x y → exec (.getAt g x y) s = .next { s with output := .value 0 } ∧
      exec (.setAt g x y v) s = .next { s with output := .flag false })

/-! ### `update()` -/

/-- R117, R212, R24: the terminal state is kept for ever: every later `update()` returns `halt = true` and changes
no state element (calls of `update()` as steps: the model's own convention, log entries 1 and 3). -/
def Obligations.TerminalIsPermanent : Prop :=
  ∀ (k : Nat) (s : State), Quiet s → Terminal s →
    runs (k + 1) s = .next { s with output := .events { halt := true, syscall := none, play := none } }

/-- R123: an idle tick decrements `counter` and does nothing else: it emits no event even when a request flag is
still up, and clears none. (That a step of a quiet machine is an `update()` is the model's own convention, log entry
3.) -/
def Obligations.IdleTickOnlyCounts : Prop :=
  ∀ s, s.track.sentHalt = false → 0 < s.track.counter.toNat →
    ∃ t, update s = .next t ∧ (Quiet s → step s = .next t) ∧
      t = { s with track := { s.track with counter := t.track.counter },
                   output := .events { halt := false, syscall := none, play := none } } ∧
      t.track.counter.toNat = s.track.counter.toNat - 1

/-- R125: a wait tick reloads `counter`, clears the two flags, decrements `wait`, and decodes nothing. (That a step
of a quiet machine is an `update()` is the model's own convention, log entry 3.) -/
def Obligations.WaitTickReloadsAndClears : Prop :=
  ∀ s, s.track.sentHalt = false → s.track.counter = 0 → 0 < s.track.wait.toNat →
    ∃ t, update s = .next t ∧ (Quiet s → step s = .next t) ∧
      t = { s with track := { s.track with counter := s.track.ticksRate, sentSyscall := false,
                                           sentPlay := false, wait := t.track.wait },
                   output := .events { halt := false, syscall := none, play := none } } ∧
      t.track.wait.toNat = s.track.wait.toNat - 1

/-- R115, R116, R118: the machine's steps carry out `update()` as one transaction: from a state in which nothing is
in progress, after 1 to 255 steps the machine is where R116's algorithm ends (its refusals included), and until
then the loop is in progress with the count of the dispatches made. (Steps, phase and count are the model's own
convention, log entries 1 to 3.) -/
def Obligations.StepsRefineUpdate : Prop :=
  ∀ s, Quiet s → ∃ k, 1 ≤ k ∧ k ≤ 255 ∧ runs k s = update s ∧
    (∀ j, 1 ≤ j → j < k → ∃ t, runs j s = .next t ∧ t.phase = .decoding j) ∧
    (∀ t, update s = .next t → t.phase = .between)

/-- R122: when 255 dispatches in a row are zero-tick, the `update()` ends in exactly the state after them, with no
event. -/
def Obligations.GuardCutsTheCycle : Prop :=
  ∀ s t, Ready s → dispatches 255 (atLoopEntry s) = .next t →
    (∀ k u, 1 ≤ k → k ≤ 255 → dispatches k (atLoopEntry s) = .next u → u.verdict = .cont) →
    update s = .next { t with output := .events Events.none } ∧ t.track.counter = t.track.ticksRate ∧
      t.track.sentSyscall = false ∧ t.track.sentPlay = false

/-- R38: after every `update()` that reached step 3, a wait tick or a decode tick, `counter = ticksRate`. -/
def Obligations.CycleTickReloadsCounter : Prop :=
  ∀ s t, s.track.sentHalt = false → s.track.counter = 0 → update s = .next t →
    t.track.counter = t.track.ticksRate

/-- R126: one `update()` emits at most one event, and the two request flags are never both up. -/
def Obligations.AtMostOneEvent : Prop :=
  ∀ s t, ¬(s.track.sentSyscall = true ∧ s.track.sentPlay = true) → update s = .next t →
    ¬(t.track.sentSyscall = true ∧ t.track.sentPlay = true) ∧
    ∃ e, t.output = .events e ∧ (e.halt = true → e.syscall = none ∧ e.play = none) ∧
      (e.syscall.isSome = true → e.play = none)

/-- R127: with `counter = c`, exactly `c` idle ticks pass, each without an event, before the next cycle tick (calls
of `update()` as steps: the model's own convention, log entries 1 and 3). -/
def Obligations.IdleTicksBetweenCycles : Prop :=
  ∀ s, Quiet s → s.track.sentHalt = false →
    ∀ j, 1 ≤ j → j ≤ s.track.counter.toNat →
      ∃ t, runs j s = .next t ∧
        t = { s with track := { s.track with counter := t.track.counter }, output := .events Events.none } ∧
        t.track.counter.toNat + j = s.track.counter.toNat

/-- R162, R28: after a WAIT of `v` at rate `r`, `(v + 1) * (r + 1) - 1` calls pass with nothing decoded, and the
next one dispatches: `wait` counts cycle ticks. (Calls of `update()` as steps are the model's own convention, log
entries 1 and 3.) -/
def Obligations.WaitSuppressesCycles : Prop :=
  ∀ s, Quiet s → s.track.sentHalt = false → s.track.counter = s.track.ticksRate →
    ∃ t, runs ((s.track.wait.toNat + 1) * (s.track.ticksRate.toNat + 1) - 1) s = .next t ∧ Ready t ∧
      t.track = { s.track with counter := 0, wait := 0, sentSyscall := t.track.sentSyscall,
                               sentPlay := t.track.sentPlay } ∧
      t.mem = s.mem ∧ t.parked = s.parked ∧ t.grids = s.grids

/-! ### The whole machine -/

/-- The invariant of R38 holds at reset (whose `base` is the model's choice, log entry 4). -/
def Obligations.ResetSatisfiesInvariant : Prop := MachineInv State.reset

/-- Every step keeps the invariant: the memory's canonical form, the flags of R25, R38 and R136, the counter
below its rate, and inside the loop everything R122 says of zero-tick instructions. -/
def Obligations.StepKeepsInvariant : Prop :=
  ∀ s t, MachineInv s → step s = .next t → MachineInv t

/-- R20 to R32, over all instructions: which of them can change each element of a Track (`cursor`: the VM's, no codec
call), and that only `setAt` changes memory. -/
def Obligations.WritersOfEachElement : Prop :=
  ∀ (i : Instr) (s t : State), exec i s = .next t →
    t.track.base = s.track.base ∧
    (t.track.cursor ≠ s.track.cursor → i.isVm = true) ∧
    (t.track.register ≠ s.track.register → (∃ v, i = .set v) ∨ (∃ v, i = .add v) ∨ (∃ v, i = .sub v)) ∧
    (t.track.accumulator ≠ s.track.accumulator →
      (∃ v, i = .equal v) ∨ (∃ v, i = .lt v) ∨ (∃ v, i = .gt v) ∨ (∃ v, i = .ltEqual v) ∨ (∃ v, i = .gtEqual v)) ∧
    (t.track.sentHalt ≠ s.track.sentHalt → i = .halt ∧ t.track.sentHalt = true) ∧
    (t.track.sentSyscall ≠ s.track.sentSyscall → (∃ c, i = .syscall c) ∧ t.track.sentSyscall = true) ∧
    (t.track.sentPlay ≠ s.track.sentPlay → ((∃ v, i = .play v) ∨ (∃ b, i = .note b)) ∧ t.track.sentPlay = true) ∧
    (t.track.counter ≠ s.track.counter ∨ t.track.ticksRate ≠ s.track.ticksRate →
      (∃ v, i = .ticks v) ∨ (∃ v, i = .ticks16 v)) ∧
    (t.track.wait ≠ s.track.wait → (∃ v, i = .wait v) ∨ (∃ v, i = .wait16 v)) ∧
    (t.track.instrument ≠ s.track.instrument → ∃ v, i = .instrument v) ∧
    (t.track.note ≠ s.track.note → (∃ v, i = .play v) ∨ (∃ b, i = .note b)) ∧
    (t.track.syscode ≠ s.track.syscode → ∃ c, i = .syscall c) ∧
    (t.mem ≠ s.mem → ∃ g x y v, i = .setAt g x y v)

/-- R50, R64: no tick and no instruction of the VM stores: memory changes only by an operation of the host (a
pending one; the model's own convention, log entry 3). -/
def Obligations.VmNeverStores : Prop :=
  ∀ s t, step s = .next t → (s.phase ≠ .between ∨ s.pending = []) →
    t.mem = s.mem ∧ ∀ a, Memory.read t.mem a = Memory.read s.mem a

/-- R217: an `update()` of the current Track leaves every other Track alone and does not depend on them (that the
other Tracks are parked is the model's own convention, log entry 16). -/
def Obligations.TracksAreIndependent : Prop :=
  ∀ s s', s'.track = s.track → s'.mem = s.mem →
    (∀ t, update s = .next t → t.parked = s.parked ∧
      ∃ t', update s' = .next t' ∧ t'.track = t.track ∧ t'.output = t.output ∧ t'.parked = s'.parked) ∧
    (∀ r, update s = .refused r → update s' = .refused r)

/-- R217, R210 (the operation is the model's own convention, log entry 16): making parked Track `k` the current
one and back again leaves every Track as it was. -/
def Obligations.SelectingTracksKeepsThem : Prop :=
  ∀ (s : State) (k : Nat) (t : Track) (more : List HostOp), s.phase = .between →
    s.pending = .selectTrack k :: .selectTrack k :: more → s.parked[k]? = some t →
    (∃ u, step s = .next u ∧ u.track = t ∧ u.parked[k]? = some s.track ∧ u.mem = s.mem) ∧
    runs 2 s = .next { s with pending := more, output := .nothing }

/-- The host's operations are the step's inputs (the model's own convention, log entry 3; the numbers of Tracks and
Grids, and the refusal of a number that names none, log entries 16 and 21): when no `update()` is in progress the
first pending one is run, `update()` as the tick it is when nothing is pending, a codec call by its meaning, each other
operation by its effect; while an `update()` is in progress none is. -/
def Obligations.PendingOperationIsRun : Prop :=
  ∀ (s : State) (more : List HostOp), s.phase = .between →
    (s.pending = .update :: more → step s = tick { s with pending := more }) ∧
    (∀ b, s.pending = .reset b :: more → step s = hostReset b { s with pending := more }) ∧
    (∀ b, s.pending = .newTrack b :: more →
      step s = .next { s with track := Track.reset b, parked := s.parked ++ [s.track], output := .nothing,
                              pending := more }) ∧
    (∀ k, s.pending = .selectTrack k :: more →
      (∀ t, s.parked[k]? = some t →
        step s = .next { s with track := t, parked := s.parked.set k s.track, output := .nothing,
                                pending := more }) ∧
      (s.parked[k]? = none → step s = .refused .noSuchObject)) ∧
    (∀ g, s.pending = .newGrid g :: more →
      step s = .next { s with grids := s.grids ++ [g], output := .nothing, pending := more }) ∧
    (∀ a bytes, s.pending = .load a bytes :: more →
      step s = .next { s with mem := Memory.load s.mem a bytes, output := .nothing, pending := more }) ∧
    (∀ b w, s.pending = .split b w :: more → step s = exec (.split b w) { s with pending := more }) ∧
    (∀ f w, s.pending = .join f w :: more → step s = exec (.join f w) { s with pending := more }) ∧
    (∀ k x y, s.pending = .getAt k x y :: more →
      (∀ g, s.grids[k]? = some g → step s = exec (.getAt g x y) { s with pending := more }) ∧
      (s.grids[k]? = none → step s = .refused .noSuchObject)) ∧
    (∀ k x y v, s.pending = .setAt k x y v :: more →
      (∀ g, s.grids[k]? = some g → step s = exec (.setAt g x y v) { s with pending := more }) ∧
      (s.grids[k]? = none → step s = .refused .noSuchObject)) ∧
    (∀ p t, tick { s with pending := [] } = .next t → tick { s with pending := p } = .next { t with pending := p }) ∧
    (∀ p r, tick { s with pending := [] } = .refused r → tick { s with pending := p } = .refused r) ∧
    (∀ n p t, step { s with phase := .decoding n } = .next t →
      step { s with phase := .decoding n, pending := p } = .next { t with pending := p })

/-- R34, R233: storing bytes at `a` makes address `a + k` read byte `k`, allocated or not before, and leaves every
other address as it was (allocation by storing is the model's choice, log entry 5; the bytes may be a program's, log
entry 25). -/
def Obligations.LoadStoresBytes : Prop :=
  ∀ (s : State) (a : Nat) (bytes : List Byte), ∃ t,
    hostLoad a bytes s = .next t ∧ t = { s with mem := t.mem, output := .nothing } ∧
    ∀ x, Memory.read t.mem x =
      if a ≤ x ∧ x < a + bytes.length then bytes[x - a]? else Memory.read s.mem x

/-- R230, R36: what reset leaves, for any base and whatever the state before; it emits no event and touches neither
memory nor another Track. -/
def Obligations.ResetZeroesTheTrack : Prop :=
  (∀ b : Nat, (Track.reset b).base = b ∧ (Track.reset b).cursor = 0 ∧ (Track.reset b).counter = 0 ∧
    (Track.reset b).register = 0 ∧ (Track.reset b).accumulator = false ∧ (Track.reset b).instrument = 0 ∧
    (Track.reset b).note = 0 ∧ (Track.reset b).syscode = 0 ∧ (Track.reset b).ticksRate = 0 ∧
    (Track.reset b).wait = 0 ∧ (Track.reset b).sentHalt = false ∧ (Track.reset b).sentSyscall = false ∧
    (Track.reset b).sentPlay = false) ∧
  (∀ (s : State) (b : Nat), hostReset b s = .next { s with track := Track.reset b, output := .nothing })

/-- R57: a read returns the last value written to the address, and a write changes nothing else. -/
def Obligations.ReadAfterWrite : Prop :=
  ∀ (m : Memory) (a x : Nat) (v : Byte),
    Memory.read (Memory.write m a v) x = (if x = a then some v else Memory.read m x) ∧
    (Memory.wf m → Memory.wf (Memory.write m a v))

/-- R183: a buffer built by instruction calls only decodes, instruction for instruction, to the calls, each
operand reduced as R182 says. -/
def Obligations.AssemblerContract : Prop :=
  ∀ (calls : List AsmCall) (is : List Instr), calls.map AsmCall.instr = is.map some →
    decodeProgram (bytecode calls) = .ok is

/-- R181, R184, R185: each call appends its bytes, so `len()` before a call is the offset of its first byte. -/
def Obligations.AssemblerAppends : Prop :=
  ∀ (before after : List AsmCall) (call : AsmCall),
    bytecode (before ++ call :: after) = bytecode before ++ call.bytes ++ bytecode after ∧
    ∀ k b, call.bytes[k]? = some b →
      (bytecode (before ++ call :: after))[bytecodeLen before + k]? = some b
end

