-- ==== Sys2Proof/Laws/Decode.lean ====
section
/-! SUPPORT. The laws of the opcode map, of operand bytes and of the decoder. -/

namespace Sys2Proof

theorem Opcode.mem_all (o : Opcode) : o ∈ Opcode.all := by cases o <;> decide

theorem opc_injective : Function.Injective opc := by
  intro a b h
  cases a <;> cases b <;> first | rfl | (exact absurd h (by decide))

/-- An opcode's byte is looked up as that opcode, under any injective map. -/
theorem opcodeOf_self {m : Opcode → Byte} (h : Function.Injective m) (o : Opcode) :
    opcodeOf m (m o) = some o := by
  rw [opcodeOf, List.find?_eq_some_iff_getElem]
  refine ⟨by simp, ?_⟩
  obtain ⟨i, hi, he⟩ := List.getElem_of_mem o.mem_all
  refine ⟨i, hi, he, fun j hj => ?_⟩
  have hne : Opcode.all[j] ≠ o := fun hc =>
    absurd ((List.Nodup.getElem_inj_iff (by decide : Opcode.all.Nodup)).mp (hc.trans he.symm)) (by omega)
  simpa using fun hc => hne (h hc)

/-- A byte that is looked up as an opcode is that opcode's byte. -/
theorem opcodeOf_some {m : Opcode → Byte} {b : Byte} {o : Opcode} (h : opcodeOf m b = some o) : m o = b := by
  simpa using List.find?_some h

/-- The bytes that are no opcode are the NOTE bytes (R76). -/
theorem opcodeOf_none {m : Opcode → Byte} {b : Byte} : opcodeOf m b = none ↔ isNoteByte m b = true := by
  simp [opcodeOf, isNoteByte]

/-- The value of a 16-bit operand (R72): byte 1 plus 256 times byte 2. -/
theorem word16_toNat (lo hi : Byte) : (word16 lo hi).toNat = lo.toNat + 256 * hi.toNat := by
  have := lo.isLt
  rw [word16, BitVec.toNat_append, ← Nat.shiftLeft_add_eq_or_of_lt this, Nat.shiftLeft_eq]
  omega

theorem loByte_toNat (w : Word) : (loByte w).toNat = w.toNat % 256 := by
  simp [loByte]

theorem hiByte_toNat (w : Word) : (hiByte w).toNat = w.toNat / 256 := by
  have := w.isLt
  simp only [hiByte, BitVec.extractLsb'_toNat, Nat.shiftRight_eq_div_pow]
  omega

@[simp] theorem loByte_word16 (lo hi : Byte) : loByte (word16 lo hi) = lo := by
  have := lo.isLt
  apply BitVec.eq_of_toNat_eq
  rw [loByte_toNat, word16_toNat]
  omega

@[simp] theorem hiByte_word16 (lo hi : Byte) : hiByte (word16 lo hi) = hi := by
  have := lo.isLt
  apply BitVec.eq_of_toNat_eq
  rw [hiByte_toNat, word16_toNat]
  omega

@[simp] theorem word16_bytes (w : Word) : word16 (loByte w) (hiByte w) = w := by
  apply BitVec.eq_of_toNat_eq
  rw [word16_toNat, loByte_toNat, hiByte_toNat]
  omega

end Sys2Proof
end

