-- ==== Sys2Proof/Laws/Memory.lean ====
section
/-! SUPPORT. The laws of memory: read after write, the canonical form is kept, which addresses are allocated. -/

namespace Sys2Proof.Machine

@[simp] theorem Memory.read_nil (x : Nat) : Memory.read [] x = none := rfl

theorem Memory.read_cons (a : Nat) (b : Byte) (m : Memory) (x : Nat) :
    Memory.read ((a, b) :: m) x = if x = a then some b else Memory.read m x := rfl

@[simp] theorem Memory.read_write_same (m : Memory) (a : Nat) (v : Byte) :
    Memory.read (Memory.write m a v) a = some v := by
  induction m with
  | nil => simp [Memory.write, Memory.read]
  | cons c m ih =>
    obtain ⟨k, b⟩ := c
    simp only [Memory.write]
    split
    · simp [Memory.read]
    · split
      · simp [Memory.read, *]
      · simp [Memory.read, *]

theorem Memory.read_write_other (m : Memory) (a x : Nat) (v : Byte) (h : x ≠ a) :
    Memory.read (Memory.write m a v) x = Memory.read m x := by
  induction m with
  | nil => simp [Memory.write, Memory.read, h]
  | cons c m ih =>
    obtain ⟨k, b⟩ := c
    simp only [Memory.write]
    split
    · simp [Memory.read, h]
    · split
      · rename_i h2
        subst h2
        simp [Memory.read, h]
      · simp [Memory.read, ih]

/-- An address of a written memory is an old one or the one written. -/
theorem Memory.mem_write {m : Memory} {a : Nat} {v : Byte} {c : Host.Cell} (h : c ∈ Memory.write m a v) :
    c = (a, v) ∨ c ∈ m := by
  induction m with
  | nil => simpa [Memory.write] using h
  | cons d m ih =>
    obtain ⟨k, b⟩ := d
    simp only [Memory.write] at h
    split at h
    · simpa using h
    · split at h
      · rename_i h2
        subst h2
        rcases List.mem_cons.mp h with h | h
        · exact .inl h
        · exact .inr (List.mem_cons_of_mem _ h)
      · rcases List.mem_cons.mp h with h | h
        · exact .inr (h ▸ List.mem_cons_self)
        · rcases ih h with h | h
          · exact .inl h
          · exact .inr (List.mem_cons_of_mem _ h)

/-- Writing keeps the canonical form. -/
theorem Memory.wf_write {m : Memory} (h : Memory.wf m) (a : Nat) (v : Byte) : Memory.wf (Memory.write m a v) := by
  induction m with
  | nil => simp [Memory.write, Memory.wf]
  | cons d m ih =>
    obtain ⟨k, b⟩ := d
    have hk := List.pairwise_cons.mp h
    simp only [Memory.write]
    split
    · rename_i hlt
      refine List.pairwise_cons.mpr ⟨fun c hc => ?_, h⟩
      rcases List.mem_cons.mp hc with hc | hc
      · simpa [hc] using hlt
      · exact Nat.lt_trans hlt (hk.1 c hc)
    · split
      · rename_i h2
        subst h2
        exact List.pairwise_cons.mpr ⟨hk.1, hk.2⟩
      · rename_i hge hne
        refine List.pairwise_cons.mpr ⟨fun c hc => ?_, ih hk.2⟩
        rcases Memory.mem_write hc with hc | hc
        · subst hc
          show k < a
          omega
        · exact hk.1 c hc

/-- The host's loading keeps the canonical form. -/
theorem Memory.wf_load {m : Memory} (h : Memory.wf m) (a : Nat) (bytes : List Byte) :
    Memory.wf (Memory.load m a bytes) := by
  induction bytes generalizing m a with
  | nil => exact h
  | cons b more ih => exact ih (Memory.wf_write h a b) (a + 1)

/-- Memory at reset has the canonical form. -/
theorem Memory.wf_reset : Memory.wf State.reset.mem := List.Pairwise.nil

/-- Loading leaves every address below its start alone. -/
theorem Memory.read_load_below (m : Memory) (a x : Nat) (bytes : List Byte) (h : x < a) :
    Memory.read (Memory.load m a bytes) x = Memory.read m x := by
  induction bytes generalizing m a with
  | nil => rfl
  | cons b more ih =>
    rw [Memory.load, ih _ _ (by omega), Memory.read_write_other _ _ _ _ (by omega)]

theorem Memory.read_load_above (m : Memory) (a x : Nat) (bytes : List Byte) (h : a + bytes.length ≤ x) :
    Memory.read (Memory.load m a bytes) x = Memory.read m x := by
  induction bytes generalizing m a with
  | nil => rfl
  | cons b more ih =>
    rw [List.length_cons] at h
    rw [Memory.load, ih _ _ (by omega), Memory.read_write_other _ _ _ _ (by omega)]

/-- What loading stores is what is read back (R57). -/
theorem Memory.read_load (m : Memory) (a k : Nat) (bytes : List Byte) (b : Byte) (h : bytes[k]? = some b) :
    Memory.read (Memory.load m a bytes) (a + k) = some b := by
  induction bytes generalizing m a k with
  | nil => simp at h
  | cons c more ih =>
    cases k with
    | zero =>
      have hc : c = b := by simpa using h
      rw [Memory.load, Memory.read_load_below _ _ _ _ (by omega), hc]
      exact Memory.read_write_same m a b
    | succ k =>
      have := ih (Memory.write m a c) (a + 1) k (by simpa using h)
      rwa [Nat.add_assoc, Nat.add_comm 1 k] at this

/-- A write never takes an address out of `Allocated`. -/
theorem Memory.isSome_read_write {m : Memory} {x : Nat} (h : (Memory.read m x).isSome = true) (a : Nat) (v : Byte) :
    (Memory.read (Memory.write m a v) x).isSome = true := by
  by_cases hx : x = a
  · subst hx; simp
  · rwa [Memory.read_write_other _ _ _ _ hx]

/-- What `covers` says (R101 (d)). -/
theorem Memory.covers_iff (m : Memory) (a n : Nat) :
    Memory.covers m a n = true ↔ ∀ x, a ≤ x → x < a + n → (Memory.read m x).isSome = true := by
  induction n generalizing a with
  | zero => exact ⟨fun _ x h1 h2 => absurd h2 (by omega), fun _ => rfl⟩
  | succ n ih =>
    rw [Memory.covers, Bool.and_eq_true, ih]
    constructor
    · rintro ⟨h0, h⟩ x h1 h2
      by_cases hx : x = a
      · exact hx ▸ h0
      · exact h x (by omega) (by omega)
    · exact fun h => ⟨h a (by omega) (by omega), fun x h1 h2 => h x (by omega) (by omega)⟩

/-- Consecutive reads give exactly these bytes (R54). -/
theorem Memory.readBytes_eq_some {m : Memory} {a : Nat} {bytes : List Byte} :
    Memory.readBytes m a bytes.length = some bytes ↔
      ∀ k b, bytes[k]? = some b → Memory.read m (a + k) = some b := by
  induction bytes generalizing a with
  | nil => simp [Memory.readBytes]
  | cons c more ih =>
    have hk : ∀ k, a + 1 + k = a + (k + 1) := fun k => by omega
    constructor
    · intro h k b hb
      rw [List.length_cons, Memory.readBytes] at h
      split at h
      · cases h
      · rename_i b0 h0
        split at h
        · cases h
        · rename_i more' h1
          obtain ⟨rfl, rfl⟩ : b0 = c ∧ more' = more := by simpa using h
          cases k with
          | zero => simpa using (show b0 = b by simpa using hb) ▸ h0
          | succ k => exact hk k ▸ ih.mp h1 k b (by simpa using hb)
    · intro h
      have h0 := h 0 c rfl
      have h1 := ih.mpr (fun k b hb => hk k ▸ h (k + 1) b (by simpa using hb))
      simp only [List.length_cons, Memory.readBytes]
      rw [Nat.add_zero] at h0
      rw [h0, h1]

end Sys2Proof.Machine
end

