-- ==== Sys2Proof/Laws/State.lean ====
section
/-! SUPPORT. The record updates of `Track` and `State`, field by field, so that no proof unfolds one. -/

namespace Sys2Proof.Machine

/-! ### Track -/

@[simp] theorem Track.advance_base (t : Track) (n : Nat) : (t.advance n).base = t.base := rfl
@[simp] theorem Track.advance_register (t : Track) (n : Nat) : (t.advance n).register = t.register := rfl
@[simp] theorem Track.advance_cursor (t : Track) (n : Nat) : (t.advance n).cursor = t.cursor + BitVec.ofNat 16 n := rfl
@[simp] theorem Track.advance_accumulator (t : Track) (n : Nat) : (t.advance n).accumulator = t.accumulator := rfl
@[simp] theorem Track.advance_sentHalt (t : Track) (n : Nat) : (t.advance n).sentHalt = t.sentHalt := rfl
@[simp] theorem Track.advance_sentSyscall (t : Track) (n : Nat) : (t.advance n).sentSyscall = t.sentSyscall := rfl
@[simp] theorem Track.advance_sentPlay (t : Track) (n : Nat) : (t.advance n).sentPlay = t.sentPlay := rfl
@[simp] theorem Track.advance_counter (t : Track) (n : Nat) : (t.advance n).counter = t.counter := rfl
@[simp] theorem Track.advance_ticksRate (t : Track) (n : Nat) : (t.advance n).ticksRate = t.ticksRate := rfl
@[simp] theorem Track.advance_wait (t : Track) (n : Nat) : (t.advance n).wait = t.wait := rfl
@[simp] theorem Track.advance_instrument (t : Track) (n : Nat) : (t.advance n).instrument = t.instrument := rfl
@[simp] theorem Track.advance_note (t : Track) (n : Nat) : (t.advance n).note = t.note := rfl
@[simp] theorem Track.advance_syscode (t : Track) (n : Nat) : (t.advance n).syscode = t.syscode := rfl

@[simp] theorem Track.jumpTo_base (t : Track) (a : Word) : (t.jumpTo a).base = t.base := rfl
@[simp] theorem Track.jumpTo_register (t : Track) (a : Word) : (t.jumpTo a).register = t.register := rfl
@[simp] theorem Track.jumpTo_cursor (t : Track) (a : Word) : (t.jumpTo a).cursor = a := rfl
@[simp] theorem Track.jumpTo_accumulator (t : Track) (a : Word) : (t.jumpTo a).accumulator = t.accumulator := rfl
@[simp] theorem Track.jumpTo_sentHalt (t : Track) (a : Word) : (t.jumpTo a).sentHalt = t.sentHalt := rfl
@[simp] theorem Track.jumpTo_sentSyscall (t : Track) (a : Word) : (t.jumpTo a).sentSyscall = t.sentSyscall := rfl
@[simp] theorem Track.jumpTo_sentPlay (t : Track) (a : Word) : (t.jumpTo a).sentPlay = t.sentPlay := rfl
@[simp] theorem Track.jumpTo_counter (t : Track) (a : Word) : (t.jumpTo a).counter = t.counter := rfl
@[simp] theorem Track.jumpTo_ticksRate (t : Track) (a : Word) : (t.jumpTo a).ticksRate = t.ticksRate := rfl
@[simp] theorem Track.jumpTo_wait (t : Track) (a : Word) : (t.jumpTo a).wait = t.wait := rfl
@[simp] theorem Track.jumpTo_instrument (t : Track) (a : Word) : (t.jumpTo a).instrument = t.instrument := rfl
@[simp] theorem Track.jumpTo_note (t : Track) (a : Word) : (t.jumpTo a).note = t.note := rfl
@[simp] theorem Track.jumpTo_syscode (t : Track) (a : Word) : (t.jumpTo a).syscode = t.syscode := rfl

@[simp] theorem Track.setRegister_base (t : Track) (v : Byte) : (t.setRegister v).base = t.base := rfl
@[simp] theorem Track.setRegister_register (t : Track) (v : Byte) : (t.setRegister v).register = v := rfl
@[simp] theorem Track.setRegister_cursor (t : Track) (v : Byte) : (t.setRegister v).cursor = t.cursor := rfl
@[simp] theorem Track.setRegister_accumulator (t : Track) (v : Byte) : (t.setRegister v).accumulator = t.accumulator := rfl
@[simp] theorem Track.setRegister_sentHalt (t : Track) (v : Byte) : (t.setRegister v).sentHalt = t.sentHalt := rfl
@[simp] theorem Track.setRegister_sentSyscall (t : Track) (v : Byte) : (t.setRegister v).sentSyscall = t.sentSyscall := rfl
@[simp] theorem Track.setRegister_sentPlay (t : Track) (v : Byte) : (t.setRegister v).sentPlay = t.sentPlay := rfl
@[simp] theorem Track.setRegister_counter (t : Track) (v : Byte) : (t.setRegister v).counter = t.counter := rfl
@[simp] theorem Track.setRegister_ticksRate (t : Track) (v : Byte) : (t.setRegister v).ticksRate = t.ticksRate := rfl
@[simp] theorem Track.setRegister_wait (t : Track) (v : Byte) : (t.setRegister v).wait = t.wait := rfl
@[simp] theorem Track.setRegister_instrument (t : Track) (v : Byte) : (t.setRegister v).instrument = t.instrument := rfl
@[simp] theorem Track.setRegister_note (t : Track) (v : Byte) : (t.setRegister v).note = t.note := rfl
@[simp] theorem Track.setRegister_syscode (t : Track) (v : Byte) : (t.setRegister v).syscode = t.syscode := rfl

@[simp] theorem Track.setInstrument_base (t : Track) (v : Byte) : (t.setInstrument v).base = t.base := rfl
@[simp] theorem Track.setInstrument_register (t : Track) (v : Byte) : (t.setInstrument v).register = t.register := rfl
@[simp] theorem Track.setInstrument_cursor (t : Track) (v : Byte) : (t.setInstrument v).cursor = t.cursor := rfl
@[simp] theorem Track.setInstrument_accumulator (t : Track) (v : Byte) : (t.setInstrument v).accumulator = t.accumulator := rfl
@[simp] theorem Track.setInstrument_sentHalt (t : Track) (v : Byte) : (t.setInstrument v).sentHalt = t.sentHalt := rfl
@[simp] theorem Track.setInstrument_sentSyscall (t : Track) (v : Byte) : (t.setInstrument v).sentSyscall = t.sentSyscall := rfl
@[simp] theorem Track.setInstrument_sentPlay (t : Track) (v : Byte) : (t.setInstrument v).sentPlay = t.sentPlay := rfl
@[simp] theorem Track.setInstrument_counter (t : Track) (v : Byte) : (t.setInstrument v).counter = t.counter := rfl
@[simp] theorem Track.setInstrument_ticksRate (t : Track) (v : Byte) : (t.setInstrument v).ticksRate = t.ticksRate := rfl
@[simp] theorem Track.setInstrument_wait (t : Track) (v : Byte) : (t.setInstrument v).wait = t.wait := rfl
@[simp] theorem Track.setInstrument_instrument (t : Track) (v : Byte) : (t.setInstrument v).instrument = v := rfl
@[simp] theorem Track.setInstrument_note (t : Track) (v : Byte) : (t.setInstrument v).note = t.note := rfl
@[simp] theorem Track.setInstrument_syscode (t : Track) (v : Byte) : (t.setInstrument v).syscode = t.syscode := rfl

@[simp] theorem Track.setWait_base (t : Track) (v : Word) : (t.setWait v).base = t.base := rfl
@[simp] theorem Track.setWait_register (t : Track) (v : Word) : (t.setWait v).register = t.register := rfl
@[simp] theorem Track.setWait_cursor (t : Track) (v : Word) : (t.setWait v).cursor = t.cursor := rfl
@[simp] theorem Track.setWait_accumulator (t : Track) (v : Word) : (t.setWait v).accumulator = t.accumulator := rfl
@[simp] theorem Track.setWait_sentHalt (t : Track) (v : Word) : (t.setWait v).sentHalt = t.sentHalt := rfl
@[simp] theorem Track.setWait_sentSyscall (t : Track) (v : Word) : (t.setWait v).sentSyscall = t.sentSyscall := rfl
@[simp] theorem Track.setWait_sentPlay (t : Track) (v : Word) : (t.setWait v).sentPlay = t.sentPlay := rfl
@[simp] theorem Track.setWait_counter (t : Track) (v : Word) : (t.setWait v).counter = t.counter := rfl
@[simp] theorem Track.setWait_ticksRate (t : Track) (v : Word) : (t.setWait v).ticksRate = t.ticksRate := rfl
@[simp] theorem Track.setWait_wait (t : Track) (v : Word) : (t.setWait v).wait = v := rfl
@[simp] theorem Track.setWait_instrument (t : Track) (v : Word) : (t.setWait v).instrument = t.instrument := rfl
@[simp] theorem Track.setWait_note (t : Track) (v : Word) : (t.setWait v).note = t.note := rfl
@[simp] theorem Track.setWait_syscode (t : Track) (v : Word) : (t.setWait v).syscode = t.syscode := rfl

@[simp] theorem Track.setRate_base (t : Track) (v : Word) : (t.setRate v).base = t.base := rfl
@[simp] theorem Track.setRate_register (t : Track) (v : Word) : (t.setRate v).register = t.register := rfl
@[simp] theorem Track.setRate_cursor (t : Track) (v : Word) : (t.setRate v).cursor = t.cursor := rfl
@[simp] theorem Track.setRate_accumulator (t : Track) (v : Word) : (t.setRate v).accumulator = t.accumulator := rfl
@[simp] theorem Track.setRate_sentHalt (t : Track) (v : Word) : (t.setRate v).sentHalt = t.sentHalt := rfl
@[simp] theorem Track.setRate_sentSyscall (t : Track) (v : Word) : (t.setRate v).sentSyscall = t.sentSyscall := rfl
@[simp] theorem Track.setRate_sentPlay (t : Track) (v : Word) : (t.setRate v).sentPlay = t.sentPlay := rfl
@[simp] theorem Track.setRate_counter (t : Track) (v : Word) : (t.setRate v).counter = v := rfl
@[simp] theorem Track.setRate_ticksRate (t : Track) (v : Word) : (t.setRate v).ticksRate = v := rfl
@[simp] theorem Track.setRate_wait (t : Track) (v : Word) : (t.setRate v).wait = t.wait := rfl
@[simp] theorem Track.setRate_instrument (t : Track) (v : Word) : (t.setRate v).instrument = t.instrument := rfl
@[simp] theorem Track.setRate_note (t : Track) (v : Word) : (t.setRate v).note = t.note := rfl
@[simp] theorem Track.setRate_syscode (t : Track) (v : Word) : (t.setRate v).syscode = t.syscode := rfl

@[simp] theorem Track.countDown_base (t : Track) : t.countDown.base = t.base := rfl
@[simp] theorem Track.countDown_register (t : Track) : t.countDown.register = t.register := rfl
@[simp] theorem Track.countDown_cursor (t : Track) : t.countDown.cursor = t.cursor := rfl
@[simp] theorem Track.countDown_accumulator (t : Track) : t.countDown.accumulator = t.accumulator := rfl
@[simp] theorem Track.countDown_sentHalt (t : Track) : t.countDown.sentHalt = t.sentHalt := rfl
@[simp] theorem Track.countDown_sentSyscall (t : Track) : t.countDown.sentSyscall = t.sentSyscall := rfl
@[simp] theorem Track.countDown_sentPlay (t : Track) : t.countDown.sentPlay = t.sentPlay := rfl
@[simp] theorem Track.countDown_counter (t : Track) : t.countDown.counter = t.counter - 1 := rfl
@[simp] theorem Track.countDown_ticksRate (t : Track) : t.countDown.ticksRate = t.ticksRate := rfl
@[simp] theorem Track.countDown_wait (t : Track) : t.countDown.wait = t.wait := rfl
@[simp] theorem Track.countDown_instrument (t : Track) : t.countDown.instrument = t.instrument := rfl
@[simp] theorem Track.countDown_note (t : Track) : t.countDown.note = t.note := rfl
@[simp] theorem Track.countDown_syscode (t : Track) : t.countDown.syscode = t.syscode := rfl

@[simp] theorem Track.startCycle_base (t : Track) : t.startCycle.base = t.base := rfl
@[simp] theorem Track.startCycle_register (t : Track) : t.startCycle.register = t.register := rfl
@[simp] theorem Track.startCycle_cursor (t : Track) : t.startCycle.cursor = t.cursor := rfl
@[simp] theorem Track.startCycle_accumulator (t : Track) : t.startCycle.accumulator = t.accumulator := rfl
@[simp] theorem Track.startCycle_sentHalt (t : Track) : t.startCycle.sentHalt = t.sentHalt := rfl
@[simp] theorem Track.startCycle_sentSyscall (t : Track) : t.startCycle.sentSyscall = false := rfl
@[simp] theorem Track.startCycle_sentPlay (t : Track) : t.startCycle.sentPlay = false := rfl
@[simp] theorem Track.startCycle_counter (t : Track) : t.startCycle.counter = t.ticksRate := rfl
@[simp] theorem Track.startCycle_ticksRate (t : Track) : t.startCycle.ticksRate = t.ticksRate := rfl
@[simp] theorem Track.startCycle_wait (t : Track) : t.startCycle.wait = t.wait := rfl
@[simp] theorem Track.startCycle_instrument (t : Track) : t.startCycle.instrument = t.instrument := rfl
@[simp] theorem Track.startCycle_note (t : Track) : t.startCycle.note = t.note := rfl
@[simp] theorem Track.startCycle_syscode (t : Track) : t.startCycle.syscode = t.syscode := rfl

@[simp] theorem Track.waitDown_base (t : Track) : t.waitDown.base = t.base := rfl
@[simp] theorem Track.waitDown_register (t : Track) : t.waitDown.register = t.register := rfl
@[simp] theorem Track.waitDown_cursor (t : Track) : t.waitDown.cursor = t.cursor := rfl
@[simp] theorem Track.waitDown_accumulator (t : Track) : t.waitDown.accumulator = t.accumulator := rfl
@[simp] theorem Track.waitDown_sentHalt (t : Track) : t.waitDown.sentHalt = t.sentHalt := rfl
@[simp] theorem Track.waitDown_sentSyscall (t : Track) : t.waitDown.sentSyscall = t.sentSyscall := rfl
@[simp] theorem Track.waitDown_sentPlay (t : Track) : t.waitDown.sentPlay = t.sentPlay := rfl
@[simp] theorem Track.waitDown_counter (t : Track) : t.waitDown.counter = t.counter := rfl
@[simp] theorem Track.waitDown_ticksRate (t : Track) : t.waitDown.ticksRate = t.ticksRate := rfl
@[simp] theorem Track.waitDown_wait (t : Track) : t.waitDown.wait = t.wait - 1 := rfl
@[simp] theorem Track.waitDown_instrument (t : Track) : t.waitDown.instrument = t.instrument := rfl
@[simp] theorem Track.waitDown_note (t : Track) : t.waitDown.note = t.note := rfl
@[simp] theorem Track.waitDown_syscode (t : Track) : t.waitDown.syscode = t.syscode := rfl

@[simp] theorem Track.setAccumulator_base (t : Track) (b : Bool) : (t.setAccumulator b).base = t.base := rfl
@[simp] theorem Track.setAccumulator_register (t : Track) (b : Bool) : (t.setAccumulator b).register = t.register := rfl
@[simp] theorem Track.setAccumulator_cursor (t : Track) (b : Bool) : (t.setAccumulator b).cursor = t.cursor := rfl
@[simp] theorem Track.setAccumulator_accumulator (t : Track) (b : Bool) : (t.setAccumulator b).accumulator = b := rfl
@[simp] theorem Track.setAccumulator_sentHalt (t : Track) (b : Bool) : (t.setAccumulator b).sentHalt = t.sentHalt := rfl
@[simp] theorem Track.setAccumulator_sentSyscall (t : Track) (b : Bool) : (t.setAccumulator b).sentSyscall = t.sentSyscall := rfl
@[simp] theorem Track.setAccumulator_sentPlay (t : Track) (b : Bool) : (t.setAccumulator b).sentPlay = t.sentPlay := rfl
@[simp] theorem Track.setAccumulator_counter (t : Track) (b : Bool) : (t.setAccumulator b).counter = t.counter := rfl
@[simp] theorem Track.setAccumulator_ticksRate (t : Track) (b : Bool) : (t.setAccumulator b).ticksRate = t.ticksRate := rfl
@[simp] theorem Track.setAccumulator_wait (t : Track) (b : Bool) : (t.setAccumulator b).wait = t.wait := rfl
@[simp] theorem Track.setAccumulator_instrument (t : Track) (b : Bool) : (t.setAccumulator b).instrument = t.instrument := rfl
@[simp] theorem Track.setAccumulator_note (t : Track) (b : Bool) : (t.setAccumulator b).note = t.note := rfl
@[simp] theorem Track.setAccumulator_syscode (t : Track) (b : Bool) : (t.setAccumulator b).syscode = t.syscode := rfl

@[simp] theorem Track.requestHalt_base (t : Track) : t.requestHalt.base = t.base := rfl
@[simp] theorem Track.requestHalt_register (t : Track) : t.requestHalt.register = t.register := rfl
@[simp] theorem Track.requestHalt_cursor (t : Track) : t.requestHalt.cursor = t.cursor := rfl
@[simp] theorem Track.requestHalt_accumulator (t : Track) : t.requestHalt.accumulator = t.accumulator := rfl
@[simp] theorem Track.requestHalt_sentHalt (t : Track) : t.requestHalt.sentHalt = true := rfl
@[simp] theorem Track.requestHalt_sentSyscall (t : Track) : t.requestHalt.sentSyscall = t.sentSyscall := rfl
@[simp] theorem Track.requestHalt_sentPlay (t : Track) : t.requestHalt.sentPlay = t.sentPlay := rfl
@[simp] theorem Track.requestHalt_counter (t : Track) : t.requestHalt.counter = t.counter := rfl
@[simp] theorem Track.requestHalt_ticksRate (t : Track) : t.requestHalt.ticksRate = t.ticksRate := rfl
@[simp] theorem Track.requestHalt_wait (t : Track) : t.requestHalt.wait = t.wait := rfl
@[simp] theorem Track.requestHalt_instrument (t : Track) : t.requestHalt.instrument = t.instrument := rfl
@[simp] theorem Track.requestHalt_note (t : Track) : t.requestHalt.note = t.note := rfl
@[simp] theorem Track.requestHalt_syscode (t : Track) : t.requestHalt.syscode = t.syscode := rfl

@[simp] theorem Track.requestSyscall_base (t : Track) (c : Word) : (t.requestSyscall c).base = t.base := rfl
@[simp] theorem Track.requestSyscall_register (t : Track) (c : Word) : (t.requestSyscall c).register = t.register := rfl
@[simp] theorem Track.requestSyscall_cursor (t : Track) (c : Word) : (t.requestSyscall c).cursor = t.cursor := rfl
@[simp] theorem Track.requestSyscall_accumulator (t : Track) (c : Word) : (t.requestSyscall c).accumulator = t.accumulator := rfl
@[simp] theorem Track.requestSyscall_sentHalt (t : Track) (c : Word) : (t.requestSyscall c).sentHalt = t.sentHalt := rfl
@[simp] theorem Track.requestSyscall_sentSyscall (t : Track) (c : Word) : (t.requestSyscall c).sentSyscall = true := rfl
@[simp] theorem Track.requestSyscall_sentPlay (t : Track) (c : Word) : (t.requestSyscall c).sentPlay = t.sentPlay := rfl
@[simp] theorem Track.requestSyscall_counter (t : Track) (c : Word) : (t.requestSyscall c).counter = t.counter := rfl
@[simp] theorem Track.requestSyscall_ticksRate (t : Track) (c : Word) : (t.requestSyscall c).ticksRate = t.ticksRate := rfl
@[simp] theorem Track.requestSyscall_wait (t : Track) (c : Word) : (t.requestSyscall c).wait = t.wait := rfl
@[simp] theorem Track.requestSyscall_instrument (t : Track) (c : Word) : (t.requestSyscall c).instrument = t.instrument := rfl
@[simp] theorem Track.requestSyscall_note (t : Track) (c : Word) : (t.requestSyscall c).note = t.note := rfl
@[simp] theorem Track.requestSyscall_syscode (t : Track) (c : Word) : (t.requestSyscall c).syscode = c := rfl

@[simp] theorem Track.requestPlay_base (t : Track) (v : Byte) : (t.requestPlay v).base = t.base := rfl
@[simp] theorem Track.requestPlay_register (t : Track) (v : Byte) : (t.requestPlay v).register = t.register := rfl
@[simp] theorem Track.requestPlay_cursor (t : Track) (v : Byte) : (t.requestPlay v).cursor = t.cursor := rfl
@[simp] theorem Track.requestPlay_accumulator (t : Track) (v : Byte) : (t.requestPlay v).accumulator = t.accumulator := rfl
@[simp] theorem Track.requestPlay_sentHalt (t : Track) (v : Byte) : (t.requestPlay v).sentHalt = t.sentHalt := rfl
@[simp] theorem Track.requestPlay_sentSyscall (t : Track) (v : Byte) : (t.requestPlay v).sentSyscall = t.sentSyscall := rfl
@[simp] theorem Track.requestPlay_sentPlay (t : Track) (v : Byte) : (t.requestPlay v).sentPlay = true := rfl
@[simp] theorem Track.requestPlay_counter (t : Track) (v : Byte) : (t.requestPlay v).counter = t.counter := rfl
@[simp] theorem Track.requestPlay_ticksRate (t : Track) (v : Byte) : (t.requestPlay v).ticksRate = t.ticksRate := rfl
@[simp] theorem Track.requestPlay_wait (t : Track) (v : Byte) : (t.requestPlay v).wait = t.wait := rfl
@[simp] theorem Track.requestPlay_instrument (t : Track) (v : Byte) : (t.requestPlay v).instrument = t.instrument := rfl
@[simp] theorem Track.requestPlay_note (t : Track) (v : Byte) : (t.requestPlay v).note = v := rfl
@[simp] theorem Track.requestPlay_syscode (t : Track) (v : Byte) : (t.requestPlay v).syscode = t.syscode := rfl

@[simp] theorem Track.reset_base (b : Nat) : (Track.reset b).base = b := rfl
@[simp] theorem Track.reset_register (b : Nat) : (Track.reset b).register = 0 := rfl
@[simp] theorem Track.reset_cursor (b : Nat) : (Track.reset b).cursor = 0 := rfl
@[simp] theorem Track.reset_accumulator (b : Nat) : (Track.reset b).accumulator = false := rfl
@[simp] theorem Track.reset_sentHalt (b : Nat) : (Track.reset b).sentHalt = false := rfl
@[simp] theorem Track.reset_sentSyscall (b : Nat) : (Track.reset b).sentSyscall = false := rfl
@[simp] theorem Track.reset_sentPlay (b : Nat) : (Track.reset b).sentPlay = false := rfl
@[simp] theorem Track.reset_counter (b : Nat) : (Track.reset b).counter = 0 := rfl
@[simp] theorem Track.reset_ticksRate (b : Nat) : (Track.reset b).ticksRate = 0 := rfl
@[simp] theorem Track.reset_wait (b : Nat) : (Track.reset b).wait = 0 := rfl
@[simp] theorem Track.reset_instrument (b : Nat) : (Track.reset b).instrument = 0 := rfl
@[simp] theorem Track.reset_note (b : Nat) : (Track.reset b).note = 0 := rfl
@[simp] theorem Track.reset_syscode (b : Nat) : (Track.reset b).syscode = 0 := rfl

/-! ### State -/

@[simp] theorem State.retire_track (s : State) (t : Track) (v : Verdict) : (s.retire t v).track = t := rfl
@[simp] theorem State.retire_parked (s : State) (t : Track) (v : Verdict) : (s.retire t v).parked = s.parked := rfl
@[simp] theorem State.retire_grids (s : State) (t : Track) (v : Verdict) : (s.retire t v).grids = s.grids := rfl
@[simp] theorem State.retire_mem (s : State) (t : Track) (v : Verdict) : (s.retire t v).mem = s.mem := rfl
@[simp] theorem State.retire_phase (s : State) (t : Track) (v : Verdict) : (s.retire t v).phase = s.phase := rfl
@[simp] theorem State.retire_verdict (s : State) (t : Track) (v : Verdict) : (s.retire t v).verdict = v := rfl
@[simp] theorem State.retire_output (s : State) (t : Track) (v : Verdict) : (s.retire t v).output = s.output := rfl
@[simp] theorem State.retire_pending (s : State) (t : Track) (v : Verdict) : (s.retire t v).pending = s.pending := rfl

@[simp] theorem State.returns_track (s : State) (o : Output) : (s.returns o).track = s.track := rfl
@[simp] theorem State.returns_parked (s : State) (o : Output) : (s.returns o).parked = s.parked := rfl
@[simp] theorem State.returns_grids (s : State) (o : Output) : (s.returns o).grids = s.grids := rfl
@[simp] theorem State.returns_mem (s : State) (o : Output) : (s.returns o).mem = s.mem := rfl
@[simp] theorem State.returns_phase (s : State) (o : Output) : (s.returns o).phase = s.phase := rfl
@[simp] theorem State.returns_verdict (s : State) (o : Output) : (s.returns o).verdict = s.verdict := rfl
@[simp] theorem State.returns_output (s : State) (o : Output) : (s.returns o).output = o := rfl
@[simp] theorem State.returns_pending (s : State) (o : Output) : (s.returns o).pending = s.pending := rfl

@[simp] theorem State.finish_track (s : State) : s.finish.track = s.track := rfl
@[simp] theorem State.finish_parked (s : State) : s.finish.parked = s.parked := rfl
@[simp] theorem State.finish_grids (s : State) : s.finish.grids = s.grids := rfl
@[simp] theorem State.finish_mem (s : State) : s.finish.mem = s.mem := rfl
@[simp] theorem State.finish_phase (s : State) : s.finish.phase = .between := rfl
@[simp] theorem State.finish_verdict (s : State) : s.finish.verdict = s.verdict := rfl
@[simp] theorem State.finish_output (s : State) : s.finish.output = .events s.track.events := rfl
@[simp] theorem State.finish_pending (s : State) : s.finish.pending = s.pending := rfl

@[simp] theorem State.reset_track : State.reset.track = Track.reset 0 := rfl
@[simp] theorem State.reset_parked : State.reset.parked = [] := rfl
@[simp] theorem State.reset_grids : State.reset.grids = [] := rfl
@[simp] theorem State.reset_mem : State.reset.mem = [] := rfl
@[simp] theorem State.reset_phase : State.reset.phase = .between := rfl
@[simp] theorem State.reset_verdict : State.reset.verdict = .endCycle := rfl
@[simp] theorem State.reset_output : State.reset.output = .nothing := rfl
@[simp] theorem State.reset_pending : State.reset.pending = [] := rfl

end Sys2Proof.Machine
end

