-- ==== Sys2Proof/Laws/Exec.lean ====
section
/-! SUPPORT. What an instruction, a fetch, a gate and a turn of the decode loop can do, said once each, for the
proofs to cite instead of unfolding them. -/

namespace Sys2Proof.Machine

/-- A VM instruction always completes, and all it does is retire a Track and a verdict that depend on the old
Track alone. -/
theorem exec_vm (i : Instr) (h : i.isVm = true) :
    ∃ (f : Track → Track) (v : Track → Verdict), ∀ s, exec i s = .next (s.retire (f s.track) (v s.track)) := by
  cases i with
  | nop => exact ⟨fun t => t.advance 1, fun _ => .endCycle, fun s => rfl⟩
  | halt => exact ⟨fun t => t.requestHalt.advance 1, fun _ => .endCycle, fun s => rfl⟩
  | jump a => exact ⟨fun t => t.jumpTo a, fun _ => .cont, fun s => rfl⟩
  | ifJump a =>
    refine ⟨fun t => if t.accumulator then t.jumpTo a else t.advance 3,
      fun t => if t.accumulator then .cont else .endCycle, fun s => ?_⟩
    simp only [exec, execIfJump, State.branch]
    split <;> simp
  | ifNotJump a =>
    refine ⟨fun t => if t.accumulator then t.advance 3 else t.jumpTo a,
      fun t => if t.accumulator then .endCycle else .cont, fun s => ?_⟩
    simp only [exec, execIfNotJump, State.branch]
    cases s.track.accumulator <;> simp
  | syscall c => exact ⟨fun t => (t.requestSyscall c).advance 3, fun _ => .endCycle, fun s => rfl⟩
  | set v => exact ⟨fun t => (t.setRegister v).advance 2, fun _ => .cont, fun s => rfl⟩
  | add v => exact ⟨fun t => (t.setRegister (t.register + v)).advance 2, fun _ => .cont, fun s => rfl⟩
  | sub v => exact ⟨fun t => (t.setRegister (t.register - v)).advance 2, fun _ => .cont, fun s => rfl⟩
  | equal v =>
    exact ⟨fun t => (t.setAccumulator (cmpEqual t.register v)).advance 2, fun _ => .cont, fun s => rfl⟩
  | lt v => exact ⟨fun t => (t.setAccumulator (cmpLt t.register v)).advance 2, fun _ => .cont, fun s => rfl⟩
  | gt v => exact ⟨fun t => (t.setAccumulator (cmpGt t.register v)).advance 2, fun _ => .cont, fun s => rfl⟩
  | ltEqual v =>
    exact ⟨fun t => (t.setAccumulator (cmpLtEqual t.register v)).advance 2, fun _ => .cont, fun s => rfl⟩
  | gtEqual v =>
    exact ⟨fun t => (t.setAccumulator (cmpGtEqual t.register v)).advance 2, fun _ => .cont, fun s => rfl⟩
  | ticks v => exact ⟨fun t => (t.setRate (zext16 v)).advance 2, fun _ => .endCycle, fun s => rfl⟩
  | ticks16 v => exact ⟨fun t => (t.setRate v).advance 3, fun _ => .endCycle, fun s => rfl⟩
  | wait v => exact ⟨fun t => (t.setWait (zext16 v)).advance 2, fun _ => .endCycle, fun s => rfl⟩
  | wait16 v => exact ⟨fun t => (t.setWait v).advance 3, fun _ => .endCycle, fun s => rfl⟩
  | instrument v => exact ⟨fun t => (t.setInstrument v).advance 2, fun _ => .cont, fun s => rfl⟩
  | play v => exact ⟨fun t => (t.requestPlay v).advance 2, fun _ => .endCycle, fun s => rfl⟩
  | note b => exact ⟨fun t => (t.requestPlay b).advance 1, fun _ => .endCycle, fun s => rfl⟩
  | split b w => cases h
  | join f w => cases h
  | getAt g x y => cases h
  | setAt g x y v => cases h

/-- A codec call that completes writes its result and, at most, memory in canonical form; nothing of a Track. -/
theorem exec_codec {i : Instr} (h : i.isVm = false) {s t : State} (he : exec i s = .next t) :
    ∃ (m : Memory) (o : Output), t = { s with mem := m, output := o } ∧ (Memory.wf s.mem → Memory.wf m) := by
  cases i with
  | split b w =>
    simp only [exec, execSplit] at he
    split at he
    · cases he; exact ⟨_, _, rfl, id⟩
    · cases he
  | join f w =>
    simp only [exec, execJoin] at he
    split at he
    · cases he; exact ⟨_, _, rfl, id⟩
    · cases he
  | getAt g x y =>
    simp only [exec, execGetAt] at he
    split at he
    · split at he
      · split at he
        · cases he; exact ⟨_, _, rfl, id⟩
        · cases he
      · cases he; exact ⟨_, _, rfl, id⟩
    · cases he
  | setAt g x y v =>
    simp only [exec, execSetAt] at he
    split at he
    · split at he
      · split at he
        · cases he; exact ⟨_, _, rfl, fun hw => Memory.wf_write hw _ _⟩
        · cases he
      · cases he; exact ⟨_, _, rfl, id⟩
    · cases he
  | _ => cases h

/-- The decoder yields VM instructions only. -/
theorem decode_isVm {bytes rest : List Byte} {i : Instr} (h : decode bytes = .ok (i, rest)) : i.isVm = true := by
  have hin : ∀ o b1 b2, (Opcode.instr o b1 b2).isVm = true := by intro o b1 b2; cases o <;> rfl
  unfold decode decodeWith at h
  split at h
  · cases h
  · split at h
    · cases h; rfl
    · split at h
      · cases h; exact hin _ _ _
      · split at h
        · cases h; exact hin _ _ _
        · cases h
      · split at h
        · cases h; exact hin _ _ _
        · cases h

/-- What a fetch that succeeds has found. -/
theorem fetch_ok {s : State} {i : Instr} (h : fetch s = .ok i) :
    ∃ op operands rest, Memory.read s.mem (s.track.address 0) = some op ∧
      straddles s.track.cursor (lengthOf opc op) = false ∧
      Memory.readBytes s.mem (s.track.address 1) (lengthOf opc op - 1) = some operands ∧
      decode (op :: operands) = .ok (i, rest) := by
  unfold fetch at h
  split at h
  · cases h
  · split at h
    · cases h
    · split at h
      · cases h
      · split at h
        · cases h
          exact ⟨_, _, _, ‹_›, by simpa using ‹¬straddles _ _ = true›, ‹_›, ‹_›⟩
        · cases h

/-- A fetch looks at memory and at the Track alone. -/
theorem fetch_congr {s s' : State} (ht : s'.track = s.track) (hm : s'.mem = s.mem) : fetch s' = fetch s := by
  simp only [fetch, ht, hm]

/-- A fetch fails by one of the two refusals of R129. -/
theorem fetch_error {s : State} {r : Refusal} (h : fetch s = .error r) :
    r = .outOfAllocated ∨ r = .cursorStraddle := by
  unfold fetch at h
  split at h
  · cases h; exact .inl rfl
  · split at h
    · cases h; exact .inr rfl
    · split at h
      · cases h; exact .inl rfl
      · split at h
        · cases h
        · cases h; exact .inl rfl

/-- What a dispatch can do: it retires an instruction, or it is refused by its fetch. -/
theorem dispatch_cases (s : State) :
    (∃ (i : Instr) (f : Track → Track) (v : Track → Verdict), fetch s = .ok i ∧ i.isVm = true ∧ (∀ u, exec i u = .next (u.retire (f u.track) (v u.track))) ∧
      dispatch s = .next (s.retire (f s.track) (v s.track))) ∨
    ∃ r, fetch s = .error r ∧ dispatch s = .refused r := by
  cases hf : fetch s with
  | error r => exact .inr ⟨r, rfl, by simp [dispatch, hf]⟩
  | ok i =>
    obtain ⟨op, operands, rest, -, -, -, hd⟩ := fetch_ok hf
    have hv := decode_isVm hd
    obtain ⟨f, v, he⟩ := exec_vm i hv
    exact .inl ⟨i, f, v, rfl, hv, he, by simp [dispatch, hf, he]⟩

/-- After an instruction with verdict `END`, or at the guard, the loop ends. -/
theorem afterDispatch_end {n : Nat} {t : State} (h : t.verdict = .endCycle ∨ 255 ≤ n) :
    afterDispatch n (.next t) = .next t.finish := if_pos h

/-- After a zero-tick instruction before the guard, the loop goes on with the count. -/
theorem afterDispatch_cont {n : Nat} {t : State} (hv : t.verdict = .cont) (hn : n < 255) :
    afterDispatch n (.next t) = .next { t with phase := .decoding n } :=
  if_neg (by rw [hv]; rintro (h | h); · cases h
             · exact absurd h (Nat.not_le.mpr hn))

/-- What a turn of the decode loop can do: at the guard it ends; else it dispatches, and ends or goes on. -/
theorem dispatchStep_cases {n : Nat} {s t : State} (h : dispatchStep n s = .next t) :
    (dispatchGuard ≤ n ∧ t = s.finish) ∨
    ∃ u, n < dispatchGuard ∧ dispatch s = .next u ∧
      ((u.verdict = .endCycle ∨ dispatchGuard ≤ n + 1) ∧ t = u.finish ∨
        u.verdict = .cont ∧ n + 1 < dispatchGuard ∧ t = { u with phase := .decoding (n + 1) }) := by
  unfold dispatchStep at h
  split at h
  · rename_i hn
    refine .inr ?_
    cases hd : dispatch s with
    | next u =>
      simp only [hd, afterDispatch] at h
      split at h
      · cases h; exact ⟨u, hn, rfl, .inl ⟨‹_›, rfl⟩⟩
      · rename_i hc
        cases h
        push Not at hc
        refine ⟨u, hn, rfl, .inr ⟨?_, hc.2, rfl⟩⟩
        cases hv : u.verdict with
        | cont => rfl
        | endCycle => exact absurd hv hc.1
    | fault r => exact nomatch r
    | refused r => simp [hd, afterDispatch] at h
  · cases h; exact .inl ⟨by omega, rfl⟩

/-- The four ways through the gates of R116. -/
theorem gate_cases (s : State) :
    (s.track.sentHalt = true ∧ gate s = .returned (s.returns (.events { Events.none with halt := true }))) ∨
    (s.track.sentHalt = false ∧ s.track.counter ≠ 0 ∧
      gate s = .returned { s with track := s.track.countDown, output := .events Events.none }) ∨
    (s.track.sentHalt = false ∧ s.track.counter = 0 ∧ s.track.wait ≠ 0 ∧
      gate s = .returned { s with track := s.track.startCycle.waitDown, output := .events Events.none }) ∨
    (s.track.sentHalt = false ∧ s.track.counter = 0 ∧ s.track.wait = 0 ∧
      gate s = .decodes { s with track := s.track.startCycle, output := .nothing }) := by
  unfold gate
  split
  · exact .inl ⟨‹_›, rfl⟩
  · have hh : s.track.sentHalt = false := by simpa using ‹¬s.track.sentHalt = true›
    refine .inr ?_
    split
    · exact .inl ⟨hh, ‹_›, rfl⟩
    · have hc : s.track.counter = 0 := not_not.mp ‹_›
      refine .inr ?_
      split
      · exact .inl ⟨hh, hc, ‹_›, rfl⟩
      · exact .inr ⟨hh, hc, not_not.mp ‹_›, rfl⟩

/-- A tick that completes returned at a gate, or made the first turn of its decode loop. -/
theorem tick_cases {s t : State} (h : tick s = .next t) :
    gate s = .returned t ∨ ∃ u, gate s = .decodes u ∧ dispatchStep 0 u = .next t := by
  unfold tick at h
  split at h
  · cases h; exact .inl ‹_›
  · exact .inr ⟨_, ‹_›, h⟩

/-- What a host operation that completes has done. -/
theorem runHostOp_cases {op : HostOp} {s t : State} (h : runHostOp op s = .next t) :
    tick s = .next t ∨
    (∃ b, t = { s with track := Track.reset b, output := .nothing }) ∨
    (∃ b, t = { s with track := Track.reset b, parked := s.parked ++ [s.track], output := .nothing }) ∨
    (∃ k p, s.parked[k]? = some p ∧
      t = { s with track := p, parked := s.parked.set k s.track, output := .nothing }) ∨
    (∃ g, t = { s with grids := s.grids ++ [g], output := .nothing }) ∨
    (∃ a bytes, t = { s with mem := Memory.load s.mem a bytes, output := .nothing }) ∨
    (∃ i, i.isVm = false ∧ exec i s = .next t) := by
  have hg : ∀ k (f : Grid → Instr), (∀ g, (f g).isVm = false) → onGrid k s f = .next t →
      ∃ i, i.isVm = false ∧ exec i s = .next t := by
    intro k f hf h
    unfold onGrid at h
    split at h
    · exact ⟨_, hf _, h⟩
    · cases h
  cases op with
  | update => exact .inl h
  | reset b => cases h; exact .inr (.inl ⟨b, rfl⟩)
  | newTrack b => cases h; exact .inr (.inr (.inl ⟨b, rfl⟩))
  | selectTrack k =>
    simp only [runHostOp, hostSelectTrack] at h
    split at h
    · cases h; exact .inr (.inr (.inr (.inl ⟨k, _, ‹_›, rfl⟩)))
    · cases h
  | newGrid g => cases h; exact .inr (.inr (.inr (.inr (.inl ⟨g, rfl⟩))))
  | load a bytes => cases h; exact .inr (.inr (.inr (.inr (.inr (.inl ⟨a, bytes, rfl⟩)))))
  | split b w => exact .inr (.inr (.inr (.inr (.inr (.inr ⟨.split b w, rfl, h⟩)))))
  | join f w => exact .inr (.inr (.inr (.inr (.inr (.inr ⟨.join f w, rfl, h⟩)))))
  | getAt k x y => exact .inr (.inr (.inr (.inr (.inr (.inr (hg k _ (fun _ => rfl) h))))))
  | setAt k x y v => exact .inr (.inr (.inr (.inr (.inr (.inr (hg k _ (fun _ => rfl) h))))))

/-- With nothing in progress and nothing pending, a step is the start of an `update()`. -/
theorem step_quiet {s : State} (hp : s.phase = .between) (hq : s.pending = []) : step s = tick s := by
  simp only [step, hp, nextOperation, hq]

/-- In the decode loop a step is one turn of it. -/
theorem step_decoding {s : State} {n : Nat} (hp : s.phase = .decoding n) : step s = dispatchStep n s := by
  simp only [step, hp]

/-- A tick that a gate ends. -/
theorem tick_returned {s t : State} (h : gate s = .returned t) : tick s = .next t := by
  simp only [tick, h]

/-- A tick that reaches the decode loop. -/
theorem tick_decodes {s t : State} (h : gate s = .decodes t) : tick s = dispatchStep 0 t := by
  simp only [tick, h]

/-- A turn of the loop before the guard dispatches. -/
theorem dispatchStep_lt {n : Nat} (hn : n < 255) (s : State) :
    dispatchStep n s = afterDispatch (n + 1) (dispatch s) := if_pos hn

/-- What a step is, by what is in progress. -/
theorem step_cases {s t : State} (h : step s = .next t) :
    (∃ n, s.phase = .decoding n ∧ dispatchStep n s = .next t) ∨
    (s.phase = .between ∧ s.pending = [] ∧ tick s = .next t) ∨
    ∃ op more, s.phase = .between ∧ s.pending = op :: more ∧ runHostOp op { s with pending := more } = .next t := by
  unfold step at h
  split at h
  · exact .inl ⟨_, ‹_›, h⟩
  · unfold nextOperation at h
    split at h
    · exact .inr (.inl ⟨‹_›, ‹_›, h⟩)
    · exact .inr (.inr ⟨_, _, ‹_›, ‹_›, h⟩)

end Sys2Proof.Machine
end

