-- ==== Sys2Proof/Laws/PerInstr.lean ====
section
/-! SUPPORT. Families of lemmas with one member per constructor of `Instr`. -/

namespace Sys2Proof.Laws.EncodedLength

open Sys2Proof

/-- The bytes a well-formed instruction is encoded in are as many as the decoder reads off byte 0 (R73); an
instruction without an encoding has none (R78). -/
def Statement (i : Instr) : Prop :=
  i.wf = true →
    match encode i with
    | [] => i.isVm = false
    | b0 :: operands => i.isVm = true ∧ lengthOf opc b0 = 1 + operands.length

theorem nop : Statement .nop := fun _ => ⟨rfl, rfl⟩
theorem halt : Statement .halt := fun _ => ⟨rfl, rfl⟩
theorem jump (a : Word) : Statement (.jump a) := fun _ => ⟨rfl, rfl⟩
theorem ifJump (a : Word) : Statement (.ifJump a) := fun _ => ⟨rfl, rfl⟩
theorem ifNotJump (a : Word) : Statement (.ifNotJump a) := fun _ => ⟨rfl, rfl⟩
theorem syscall (c : Word) : Statement (.syscall c) := fun _ => ⟨rfl, rfl⟩
theorem set (v : Byte) : Statement (.set v) := fun _ => ⟨rfl, rfl⟩
theorem add (v : Byte) : Statement (.add v) := fun _ => ⟨rfl, rfl⟩
theorem sub (v : Byte) : Statement (.sub v) := fun _ => ⟨rfl, rfl⟩
theorem equal (v : Byte) : Statement (.equal v) := fun _ => ⟨rfl, rfl⟩
theorem lt (v : Byte) : Statement (.lt v) := fun _ => ⟨rfl, rfl⟩
theorem gt (v : Byte) : Statement (.gt v) := fun _ => ⟨rfl, rfl⟩
theorem ltEqual (v : Byte) : Statement (.ltEqual v) := fun _ => ⟨rfl, rfl⟩
theorem gtEqual (v : Byte) : Statement (.gtEqual v) := fun _ => ⟨rfl, rfl⟩
theorem ticks (v : Byte) : Statement (.ticks v) := fun _ => ⟨rfl, rfl⟩
theorem ticks16 (v : Word) : Statement (.ticks16 v) := fun _ => ⟨rfl, rfl⟩
theorem wait (v : Byte) : Statement (.wait v) := fun _ => ⟨rfl, rfl⟩
theorem wait16 (v : Word) : Statement (.wait16 v) := fun _ => ⟨rfl, rfl⟩
theorem instrument (v : Byte) : Statement (.instrument v) := fun _ => ⟨rfl, rfl⟩
theorem play (v : Byte) : Statement (.play v) := fun _ => ⟨rfl, rfl⟩
theorem note (b : Byte) : Statement (.note b) := fun h =>
  ⟨rfl, by simp only [lengthOf, opcodeOf_none.mpr h, List.length_nil]⟩
theorem split (b : Byte) (w : Nat) : Statement (.split b w) := fun _ => rfl
theorem join (f : List Int) (w : Nat) : Statement (.join f w) := fun _ => rfl
theorem getAt (g : Grid) (x : Int) (y : Int) : Statement (.getAt g x y) := fun _ => rfl
theorem setAt (g : Grid) (x : Int) (y : Int) (v : Int) : Statement (.setAt g x y v) := fun _ => rfl

end Sys2Proof.Laws.EncodedLength
end

