-- ==== Sys2Proof/Laws/Runs.lean ====
section
/-! SUPPORT. Runs of the machine: how they unfold and compose, and that they are the host's own runs. -/

namespace Sys2Proof.Safety

open Sys2Proof Sys2Proof.Machine

theorem runs_zero (s : State) : runs 0 s = .next s := rfl

theorem runs_succ {s t : State} (h : step s = .next t) (k : Nat) : runs (k + 1) s = runs k t := by
  simp only [runs, h]

theorem runs_one (s : State) : runs 1 s = step s := by
  cases h : step s with
  | next t => exact runs_succ h 0
  | fault r => simp only [runs, h]
  | refused r => simp only [runs, h]

theorem runs_add {j : Nat} {s t : State} (h : runs j s = .next t) (k : Nat) : runs (j + k) s = runs k t := by
  induction j generalizing s with
  | zero => cases h; rw [Nat.zero_add]
  | succ j ih =>
    cases hs : step s with
    | next u =>
      rw [runs_succ hs] at h
      rw [Nat.add_right_comm, runs_succ hs]
      exact ih h
    | fault r => exact nomatch r
    | refused r => simp [runs, hs] at h

/-- `runs` is the host's run of the machine. -/
theorem runs_eq_core_run (k : Nat) (s : State) : runs k s = Host.Core.run Sys2Proof.core k s := by
  induction k generalizing s with
  | zero => rfl
  | succ k ih =>
    refine Eq.trans ?_ (Host.Core.run.eq_2 Sys2Proof.core s k).symm
    cases hs : step s with
    | next t =>
      have hc : Sys2Proof.core.step s = .next t := hs
      rw [runs_succ hs, ih]
      simp only [hc]
      rfl
    | fault r => exact nomatch r
    | refused r =>
      have hc : Sys2Proof.core.step s = .refused r := hs
      simp only [runs, hs, hc]
      rfl

/-- A dispatch neither reads nor writes the host's pending operations. -/
theorem dispatch_withPending (s : State) (p : List HostOp) :
    dispatch { s with pending := p } =
      match dispatch s with
      | .next t => .next { t with pending := p }
      | .fault r => .fault r
      | .refused r => .refused r := by
  have hf : fetch { s with pending := p } = fetch s := fetch_congr rfl rfl
  rcases dispatch_cases s with ⟨i, f, v, hi, hv, he, hd⟩ | ⟨r, hi, hd⟩
  · rw [hd, dispatch, hf, hi]
    exact he _
  · rw [hd, dispatch, hf, hi]

/-- A dispatch does not look at the loop's count and does not change it. -/
theorem dispatch_withPhase (s : State) (p : Phase) :
    dispatch { s with phase := p } =
      match dispatch s with
      | .next t => .next { t with phase := p }
      | .fault r => .fault r
      | .refused r => .refused r := by
  have hfc : fetch { s with phase := p } = fetch s := fetch_congr rfl rfl
  rcases dispatch_cases s with ⟨i, f, v, hf, -, he, hd⟩ | ⟨r, hf, hd⟩
  · rw [hd, dispatch, hfc, hf]
    simp only [he]
    rfl
  · rw [hd, dispatch, hfc, hf]

/-- What a dispatch leaves alone: everything but the current Track and the verdict. -/
theorem dispatch_frame {s t : State} (h : dispatch s = .next t) :
    t.mem = s.mem ∧ t.parked = s.parked ∧ t.grids = s.grids ∧ t.phase = s.phase ∧ t.output = s.output ∧
      t.pending = s.pending := by
  rcases dispatch_cases s with ⟨i, f, v, -, -, -, hd⟩ | ⟨r, -, hd⟩
  · rw [hd] at h; cases h; simp
  · rw [hd] at h; cases h

end Sys2Proof.Safety
end

