-- ==== Sys2Proof/Tests/Slice0.lean ====
section
/-! SUPPORT. Tests: expected values are written out from spec/30_encoding.md R75 and from the vectors of
spec/95_test_vectors.md (cited by id), never from the model. The last part shows for each obligation with
hypotheses a state and operands that meet them. -/

namespace Sys2Proof.Tests

open Sys2Proof Sys2Proof.Machine Sys2Proof.Safety

/-! ### Helpers -/

/-- A machine that has the Track `t` and the bytes at its cursor, and nothing else. -/
def having (t : Track) (bytes : List Byte) : State :=
  { State.reset with track := t, mem := Memory.load [] (t.base + t.cursor.toNat) bytes }

/-- One field of what one dispatch leaves. -/
def dispatched {α : Type} (t : Track) (bytes : List Byte) (field : State → α) : Option α :=
  match dispatch (having t bytes) with
  | .next s => some (field s)
  | .fault _ => none
  | .refused _ => none

/-- One field of what one step leaves. -/
def stepped {α : Type} (s : State) (field : State → α) : Option α :=
  match step s with
  | .next t => some (field t)
  | .fault _ => none
  | .refused _ => none

/-- One field of what one instruction leaves. -/
def executed {α : Type} (i : Instr) (s : State) (field : State → α) : Option α :=
  match exec i s with
  | .next t => some (field t)
  | .fault _ => none
  | .refused _ => none

/-- Why a step stops, if it stops. -/
def refusalOf (o : Host.Outcome State Fault Refusal) : Option Refusal :=
  match o with
  | .next _ => none
  | .fault _ => none
  | .refused r => some r

/-- A Track fresh from `reset(0)`. -/
abbrev fresh : Track := Track.reset 0

/-! ### Well-formedness: each check refuses an ill-formed term -/

theorem test_wf_note_refuses_opcode_byte :
    (Instr.note 0xEC).wf = false ∧ (Instr.note 0xFF).wf = false ∧ (Instr.note 0xEB).wf = true := by decide

theorem test_wf_split_refuses_width :
    (Instr.split 0 3).wf = false ∧ (Instr.split 0 0).wf = false ∧ (Instr.split 0 8).wf = false ∧
      (Instr.split 0 4).wf = true := by decide

theorem test_wf_join_refuses_length_and_width :
    (Instr.join [1, 2, 3] 2).wf = false ∧ (Instr.join [1, 2] 3).wf = false ∧
      (Instr.join [1, 2, 3, 4] 2).wf = true := by decide

theorem test_wf_getAt_refuses_grid_shape :
    (Instr.getAt ⟨0, 6, 2, 2⟩ 0 0).wf = false ∧ (Instr.getAt ⟨0, 6, 2, 3⟩ 0 0).wf = false ∧
      (Instr.getAt ⟨0, 8, 2, 2⟩ 0 0).wf = true := by decide

theorem test_wf_setAt_refuses_grid_shape :
    (Instr.setAt ⟨0, 7, 2, 1⟩ 0 0 0).wf = false ∧ (Instr.setAt ⟨0, 8, 2, 0⟩ 0 0 0).wf = false ∧
      (Instr.setAt ⟨0, 2, 2, 4⟩ 0 0 0).wf = true := by decide

/-! ### Decoding: bytes written out from the table of R75 -/

theorem test_decode_control :
    decode [0xEC] = .ok (.nop, []) ∧ decode [0xED] = .ok (.halt, []) ∧
    decode [0xEE, 0x34, 0x12] = .ok (.jump 0x1234, []) ∧ decode [0xEF, 0x0B, 0x00] = .ok (.ifJump 11, []) ∧
    decode [0xF0, 0x00, 0x80] = .ok (.ifNotJump 0x8000, []) := by decide

theorem test_decode_register :
    decode [0xF2, 0x05] = .ok (.set 5, []) ∧ decode [0xF3, 0x03] = .ok (.add 3, []) ∧
    decode [0xF4, 0x02] = .ok (.sub 2, []) ∧ decode [0xF5, 0x08] = .ok (.equal 8, []) ∧
    decode [0xF6, 0x7F] = .ok (.lt 0x7F, []) ∧ decode [0xF7, 0x01] = .ok (.gt 1, []) ∧
    decode [0xF8, 0xFF] = .ok (.ltEqual 0xFF, []) ∧ decode [0xF9, 0x80] = .ok (.gtEqual 0x80, []) := by decide

theorem test_decode_timing :
    decode [0xFA, 0x03] = .ok (.ticks 3, []) ∧ decode [0xFB, 0x00, 0x01] = .ok (.ticks16 256, []) ∧
    decode [0xFC, 0x02] = .ok (.wait 2, []) ∧ decode [0xFD, 0x34, 0x12] = .ok (.wait16 4660, []) := by decide

theorem test_decode_events :
    decode [0xF1, 0xEF, 0xBE] = .ok (.syscall 0xBEEF, []) ∧ decode [0xFE, 0x07] = .ok (.instrument 7, []) ∧
    decode [0xFF, 0x3C] = .ok (.play 60, []) ∧ decode [0x0A, 0xED] = .ok (.note 10, [0xED]) := by decide

/-- The five NOTE rows of R79, each at its first and last byte. -/
theorem test_decode_note_rows :
    [0x00, 0x7F, 0x80, 0xBF, 0xC0, 0xDF, 0xE0, 0xE7, 0xE8, 0xEB].all
      (fun b => decide (decode [b] = .ok (.note b, []))) = true := by decide

theorem test_decode_refuses_short_strings :
    decode [] = .error .missingOpcode ∧ decode [0xF2] = .error (.missingOperand .set) ∧
    decode [0xEE, 0x00] = .error (.missingOperand .jump) := by decide

/-- Table words: byte 0 is the most significant byte of the row (log entry 15). -/
theorem test_table_words :
    decodeTableWord 8 0xEC = some .nop ∧ decodeTableWord 24 0xEE3412 = some (.jump 0x1234) ∧
    decodeTableWord 16 0xF2FF = some (.set 255) ∧ decodeTableWord 24 0xFB0001 = some (.ticks16 256) ∧
    decodeTableWord 8 0xEB = some (.note 235) ∧ decodeTableWord 8 0x7F = some (.note 127) := by decide

theorem test_first_step_runs_table_word :
    stepped (State.reset.withFetchWord 24 0xEE3412) (fun t => (t.track.cursor, t.phase)) =
      some (0x1234, .decoding 1) := by decide

theorem test_first_step_plays_table_word :
    stepped (State.reset.withFetchWord 16 0xFF3C) (fun t => (t.track.cursor, t.output)) =
      some (2, .events ⟨false, none, some 60⟩) := by decide

/-! ### VM family 1 -/

/-- V-CTL-1. -/
theorem test_nop :
    dispatched { fresh with cursor := 0x10 } [0xEC] (fun t => (t.track, t.verdict)) =
      some ({ fresh with cursor := 0x11 }, .endCycle) := by decide

/-- V-UPD-9. -/
theorem test_nop_wraps :
    dispatched { fresh with cursor := 0xFFFF } [0xEC] (fun t => t.track.cursor) = some 0 := by decide

/-- V-CTL-2. -/
theorem test_halt :
    dispatched { fresh with cursor := 0x0D } [0xED] (fun t => (t.track, t.verdict)) =
      some ({ fresh with cursor := 0x0E, sentHalt := true }, .endCycle) := by decide

/-- E5, call 1: the tick that executes HALT emits no event. -/
theorem test_halt_tick_is_silent :
    stepped (having fresh [0xED, 0xFF, 0x07]) (fun t => (t.track.sentHalt, t.output)) =
      some (true, .events ⟨false, none, none⟩) := by decide

/-- V-CTL-8. -/
theorem test_jump :
    dispatched { fresh with cursor := 0x100 } [0xEE, 0x34, 0x12] (fun t => (t.track, t.verdict)) =
      some ({ fresh with cursor := 0x1234 }, .cont) := by decide

/-- V-UPD-8: the target is an offset from `base`. -/
theorem test_jump_with_base :
    dispatched (Track.reset 0x100) [0xEE, 0x03, 0x00] (fun t => (t.track.base, t.track.cursor)) =
      some (0x100, 3) := by decide

/-- V-CTL-4, V-CTL-5. -/
theorem test_ifJump :
    dispatched { fresh with cursor := 6 } [0xEF, 0x0B, 0x00] (fun t => (t.track.cursor, t.verdict)) =
      some (9, .endCycle) ∧
    dispatched { fresh with cursor := 6, accumulator := true } [0xEF, 0x0B, 0x00]
      (fun t => (t.track.cursor, t.verdict)) = some (0x0B, .cont) := by decide

/-- V-CTL-10. -/
theorem test_ifJump_wraps :
    dispatched { fresh with cursor := 0xFFFD } [0xEF, 0x00, 0x80] (fun t => (t.track.cursor, t.verdict)) =
      some (0, .endCycle) := by decide

/-- V-CTL-6, V-CTL-7. -/
theorem test_ifNotJump :
    dispatched { fresh with cursor := 0x0C, accumulator := true } [0xF0, 0x00, 0x00]
      (fun t => (t.track.cursor, t.verdict)) = some (0x0F, .endCycle) ∧
    dispatched { fresh with cursor := 0x0C } [0xF0, 0x00, 0x00] (fun t => (t.track.cursor, t.verdict)) =
      some (0, .cont) := by decide

/-! ### VM family 2 -/

/-- V-REG-2: `accumulator` untouched. -/
theorem test_set :
    dispatched { fresh with register := 0x7F, accumulator := true, cursor := 8 } [0xF2, 0x00]
      (fun t => (t.track, t.verdict)) =
      some ({ fresh with register := 0, accumulator := true, cursor := 0x0A }, .cont) := by decide

/-- V-UPD-10: ending exactly at offset 0xFFFF is fine. -/
theorem test_set_at_top :
    dispatched { fresh with cursor := 0xFFFE } [0xF2, 0x07] (fun t => (t.track.register, t.track.cursor)) =
      some (7, 0) := by decide

/-- V-REG-3. -/
theorem test_add :
    dispatched { fresh with register := 5, cursor := 2 } [0xF3, 0x03] (fun t => (t.track, t.verdict)) =
      some ({ fresh with register := 8, cursor := 4 }, .cont) := by decide

/-- V-REG-5, V-REG-6. -/
theorem test_add_wraps :
    dispatched { fresh with register := 0xFF } [0xF3, 0xFF] (fun t => t.track.register) = some 0xFE ∧
    dispatched { fresh with register := 0x80 } [0xF3, 0x80] (fun t => t.track.register) = some 0 := by decide

/-- V-REG-7, V-REG-8. -/
theorem test_sub_wraps :
    dispatched { fresh with register := 1 } [0xF4, 0x02] (fun t => t.track.register) = some 0xFF ∧
    dispatched { fresh with register := 0 } [0xF4, 0xFF] (fun t => t.track.register) = some 1 := by decide

/-- V-REG-9. -/
theorem test_sub_zero :
    dispatched { fresh with register := 0x42 } [0xF4, 0x00] (fun t => (t.track, t.verdict)) =
      some ({ fresh with register := 0x42, cursor := 2 }, .cont) := by decide

/-- V-REG-10, V-REG-11. -/
theorem test_equal :
    dispatched { fresh with register := 8 } [0xF5, 0x08] (fun t => (t.track, t.verdict)) =
      some ({ fresh with register := 8, cursor := 2, accumulator := true }, .cont) ∧
    dispatched { fresh with register := 8, accumulator := true } [0xF5, 0x09] (fun t => t.track.accumulator) =
      some false := by decide

/-- V-REG-12, V-REG-13, V-REG-14. -/
theorem test_lt :
    dispatched { fresh with register := 2 } [0xF6, 0x03] (fun t => t.track.accumulator) = some true ∧
    dispatched { fresh with register := 0x80, accumulator := true } [0xF6, 0x7F] (fun t => t.track.accumulator) =
      some false ∧
    dispatched { fresh with accumulator := true } [0xF6, 0x00] (fun t => t.track.accumulator) = some false := by
  decide

/-- V-REG-15, V-REG-16. -/
theorem test_gt :
    dispatched { fresh with register := 0xFF } [0xF7, 0x00] (fun t => t.track.accumulator) = some true ∧
    dispatched { fresh with register := 3, accumulator := true } [0xF7, 0x03] (fun t => t.track.accumulator) =
      some false := by decide

/-- V-REG-17, V-REG-18. -/
theorem test_ltEqual :
    dispatched { fresh with register := 3 } [0xF8, 0x03] (fun t => t.track.accumulator) = some true ∧
    dispatched { fresh with register := 3, accumulator := true } [0xF8, 0x02] (fun t => t.track.accumulator) =
      some false := by decide

/-- V-REG-19, V-REG-20, V-REG-21. -/
theorem test_gtEqual :
    dispatched { fresh with register := 0xFF } [0xF9, 0xFF] (fun t => t.track.accumulator) = some true ∧
    dispatched { fresh with register := 0xFE, accumulator := true } [0xF9, 0xFF] (fun t => t.track.accumulator) =
      some false ∧
    dispatched fresh [0xF9, 0x00] (fun t => t.track.accumulator) = some true := by decide

/-! ### VM family 3 -/

/-- V-TIM-2. -/
theorem test_ticks :
    dispatched { fresh with ticksRate := 9, counter := 9, cursor := 4 } [0xFA, 0x00]
      (fun t => (t.track, t.verdict)) = some ({ fresh with cursor := 6 }, .endCycle) := by decide

/-- V-TIM-3: zero-extended. -/
theorem test_ticks_zero_extends :
    dispatched fresh [0xFA, 0xFF] (fun t => (t.track.counter, t.track.ticksRate)) = some (255, 255) := by decide

/-- V-TIM-4. -/
theorem test_ticks16 :
    dispatched fresh [0xFB, 0x00, 0x01] (fun t => (t.track, t.verdict)) =
      some ({ fresh with cursor := 3, counter := 256, ticksRate := 256 }, .endCycle) := by decide

/-- V-TIM-6, V-TIM-7. -/
theorem test_wait :
    dispatched { fresh with cursor := 2 } [0xFC, 0x02] (fun t => (t.track, t.verdict)) =
      some ({ fresh with cursor := 4, wait := 2 }, .endCycle) ∧
    dispatched { fresh with cursor := 2 } [0xFC, 0x00] (fun t => (t.track, t.verdict)) =
      some ({ fresh with cursor := 4 }, .endCycle) := by decide

/-- V-TIM-9. -/
theorem test_wait16 :
    dispatched { fresh with cursor := 3 } [0xFD, 0x34, 0x12] (fun t => (t.track, t.verdict)) =
      some ({ fresh with cursor := 6, wait := 4660 }, .endCycle) := by decide

/-! ### VM family 4 -/

/-- V-EVT-1. -/
theorem test_syscall :
    stepped (having fresh [0xF1, 0x34, 0x12]) (fun t => (t.track, t.output)) =
      some ({ fresh with cursor := 3, syscode := 0x1234, sentSyscall := true },
        .events ⟨false, some 0x1234, none⟩) := by decide

/-- V-EVT-3. -/
theorem test_instrument :
    stepped (having { fresh with cursor := 2 } [0xFE, 0x07]) (fun t => (t.track, t.phase, t.output)) =
      some ({ fresh with cursor := 4, instrument := 7 }, .decoding 1, .nothing) := by decide

/-- V-EVT-5. -/
theorem test_play :
    stepped (having fresh [0xFF, 0xFF]) (fun t => (t.track, t.output)) =
      some ({ fresh with cursor := 2, note := 255, sentPlay := true }, .events ⟨false, none, some 255⟩) := by decide

/-- V-EVT-7. -/
theorem test_note_zero :
    stepped (having { fresh with note := 5, cursor := 9 } [0x00]) (fun t => (t.track, t.output)) =
      some ({ fresh with cursor := 0x0A, note := 0, sentPlay := true }, .events ⟨false, none, some 0⟩) := by decide

/-! ### `update()` -/

/-- V-UPD-1. -/
theorem test_halted_tick :
    stepped (having { fresh with sentHalt := true, cursor := 0x0E, counter := 1, wait := 5 } [])
      (fun t => (t.track, t.output)) =
      some ({ fresh with sentHalt := true, cursor := 0x0E, counter := 1, wait := 5 },
        .events ⟨true, none, none⟩) := by decide

/-- V-UPD-2. -/
theorem test_idle_tick :
    stepped (having { fresh with counter := 2, wait := 7, sentPlay := true } []) (fun t => (t.track, t.output)) =
      some ({ fresh with counter := 1, wait := 7, sentPlay := true }, .events ⟨false, none, none⟩) := by decide

/-- V-UPD-5. -/
theorem test_wait_tick :
    stepped (having { fresh with ticksRate := 4, wait := 1, sentSyscall := true, cursor := 0x20 } [])
      (fun t => (t.track, t.output)) =
      some ({ fresh with ticksRate := 4, counter := 4, cursor := 0x20 }, .events ⟨false, none, none⟩) := by decide

/-- V-UPD-10. -/
theorem test_straddle :
    refusalOf (dispatch (having { fresh with cursor := 0xFFFF } [0xF2])) = some .cursorStraddle ∧
    refusalOf (dispatch (having { fresh with cursor := 0xFFFE } [0xEE, 0x00])) = some .cursorStraddle := by decide

/-- V-UPD-11. -/
theorem test_out_of_allocated :
    refusalOf (dispatch (having fresh [0xF2])) = some .outOfAllocated ∧
    refusalOf (dispatch (having fresh [0xEF, 0x00])) = some .outOfAllocated ∧
    refusalOf (dispatch (having fresh [])) = some .outOfAllocated := by decide

/-- V-UPD-12. -/
theorem test_reset_operation :
    stepped { having { fresh with sentHalt := true, register := 8 } [0xED] with pending := [.reset 0x40] }
      (fun t => (t.track, t.output, t.mem)) = some (Track.reset 0x40, .nothing, [(0, 0xED)]) := by decide

/-! ### The codec -/

/-- V-SPL-1, V-SPL-2, V-SPL-3. -/
theorem test_split :
    executed (.split 0x1B 2) State.reset State.output = some (.fields [0, 1, 2, 3]) ∧
    executed (.split 0x1B 4) State.reset State.output = some (.fields [1, 11]) ∧
    executed (.split 0x1B 1) State.reset State.output = some (.fields [0, 0, 0, 1, 1, 0, 1, 1]) := by decide

/-- V-JOIN-2, V-JOIN-3, V-JOIN-4. -/
theorem test_join :
    executed (.join [4, 5, -1, 7] 2) State.reset State.output = some (.byte 0x1F) ∧
    executed (.join [31, 42] 4) State.reset State.output = some (.byte 0xFA) ∧
    executed (.join [2, 3, 0, 1, 1, 1, 1, 256] 1) State.reset State.output = some (.byte 0x5E) := by decide

/-- V-JOIN-10. -/
theorem test_codec_bad_shape :
    refusalOf (exec (.split 0 3) State.reset) = some .codecBadShape ∧
    refusalOf (exec (.join [1, 2, 3] 2) State.reset) = some .codecBadShape := by decide

/-- V-GRD-7, V-GRD-9. -/
theorem test_grid_decoder :
    (byteOffset ⟨0xA0, 160, 160, 2⟩ 37 12, fieldIndex ⟨0xA0, 160, 160, 2⟩ 37) = (0x289, 1) ∧
    (byteOffset ⟨0xA0, 160, 160, 2⟩ 159 159, fieldIndex ⟨0xA0, 160, 160, 2⟩ 159) = (0x199F, 3) := by decide

/-- The Grid `g2` of E2 and its bytes. -/
def g2 : Grid := ⟨0x10, 8, 2, 4⟩

/-- The machine of E2. -/
def g2State : State :=
  { State.reset with mem := Memory.load [] 0x10 [0x12, 0x34, 0x56, 0x78, 0x9A, 0xBC, 0xDE, 0xF0] }

/-- V-GET-2, V-GET-5. -/
theorem test_getAt :
    executed (.getAt g2 1 0) g2State State.output = some (.value 2) ∧
    executed (.getAt g2 5 1) g2State State.output = some (.value 14) := by decide

/-- E2. -/
theorem test_getAt_out_of_bounds :
    executed (.getAt g2 8 0) g2State State.output = some (.value 0) ∧
    executed (.getAt g2 (-1) 0) g2State State.output = some (.value 0) ∧
    executed (.getAt g2 0 2) g2State State.output = some (.value 0) := by decide

/-- V-SET-1. -/
theorem test_setAt :
    executed (.setAt g2 5 1 0x17) g2State (fun t => (t.output, t.mem)) =
      some (.flag true, Memory.load [] 0x10 [0x12, 0x34, 0x56, 0x78, 0x9A, 0xBC, 0xD7, 0xF0]) := by decide

/-- E2. -/
theorem test_setAt_out_of_bounds :
    executed (.setAt g2 8 1 3) g2State (fun t => (t.output, t.mem)) = some (.flag false, g2State.mem) := by decide

/-- V-SET-10, V-SET-11, V-SET-12. -/
theorem test_grid_ill_formed :
    refusalOf (exec (.getAt ⟨0x10, 6, 2, 2⟩ 0 0) g2State) = some .gridIllFormed ∧
    refusalOf (exec (.getAt ⟨0x50, 4, 1, 2⟩ 0 0) g2State) = some .gridIllFormed ∧
    executed (.setAt ⟨0x60, 0, 5, 4⟩ 0 0 1) g2State State.output = some (.flag false) := by decide

/-! ### The Assembler -/

/-- V-ASM-1, V-ASM-2, V-ASM-4, V-ASM-8. -/
theorem test_assembler :
    bytecode [.ticks 3, .play 60, .jump 2] = [0xFA, 0x03, 0xFF, 0x3C, 0xEE, 0x02, 0x00] ∧
    bytecode [.set (-1)] = [0xF2, 0xFF] ∧ bytecode [.jump 0x10002] = [0xEE, 0x02, 0x00] ∧
    bytecode [.db [0x30, 300, -1]] = [0x30, 0x2C, 0xFF] := by decide

/-! ### Witnesses: the hypotheses of each obligation can be met -/

theorem test_witness_DecodeOfEncode :
    Function.Injective opc ∧ (Instr.note 0xEB).isVm = true ∧ (Instr.note 0xEB).wfWith opc = true ∧
      (Instr.jump 0xFFFF).isVm = true ∧ (Instr.jump 0xFFFF).wfWith opc = true :=
  ⟨opc_injective, by decide⟩

theorem test_witness_EncodeOfDecode :
    decodeWith opc [0xFB, 0x00, 0x01, 0xEC] = .ok (.ticks16 256, [0xEC]) := by decide

theorem test_witness_EveryByteDecodes :
    (0xEB : Byte).toNat < 0xEC ∧ 0xEC ≤ (0xEC : Byte).toNat := by decide

theorem test_witness_LengthFromByteZero :
    decode [0xEB, 1] = .ok (.note 235, [1]) ∧ decode [0xF2, 1] = .ok (.set 1, []) ∧
      decode [0xF1, 1, 0] = .ok (.syscall 1, []) := by decide

/-- A machine about to run a JUMP to itself. -/
def jumpSelf : State := having fresh [0xEE, 0x00, 0x00]

theorem jumpSelf_bytes : BytesAtCursor jumpSelf [0xEE, 0x00, 0x00] := by
  refine ⟨fun k b h => ?_, by decide⟩
  match k with
  | 0 => cases h; decide
  | 1 => cases h; decide
  | 2 => cases h; decide
  | k + 3 => cases h

theorem jumpSelf_ready : Ready jumpSelf := ⟨⟨rfl, rfl⟩, rfl, rfl, rfl⟩

theorem test_witness_StepRunsDecodedInstruction :
    decode [0xEE, 0x00, 0x00] = .ok (.jump 0, []) ∧ BytesAtCursor jumpSelf [0xEE, 0x00, 0x00] ∧ Ready jumpSelf :=
  ⟨by decide, jumpSelf_bytes, jumpSelf_ready⟩

theorem test_witness_StepRunsDecodedInstruction_in_loop :
    decode [0xEE, 0x00, 0x00] = .ok (.jump 0, []) ∧
      BytesAtCursor { jumpSelf with phase := .decoding 254 } [0xEE, 0x00, 0x00] ∧
      ({ jumpSelf with phase := .decoding 254 } : State).phase = .decoding 254 ∧ 254 < 255 :=
  ⟨by decide, jumpSelf_bytes, rfl, by decide⟩

/-- The loop goes on after a dispatch (count 1), ends at the guard (count 254), and, for a NOP, on verdict END. -/
theorem test_witness_DispatchFollowsVerdictTable :
    (∀ n, n = 1 ∨ n = 254 → ({ jumpSelf with phase := .decoding n } : State).phase = .decoding n ∧ n < 255 ∧
      ({ jumpSelf with phase := .decoding n } : State).track.sentSyscall = false ∧
      ({ jumpSelf with phase := .decoding n } : State).track.sentPlay = false ∧ (Instr.jump 0).isVm = true ∧
      (Instr.jump 0).wf = true ∧ BytesAtCursor { jumpSelf with phase := .decoding n } (encode (.jump 0)) ∧
      verdictOf ({ jumpSelf with phase := .decoding n } : State).track.accumulator (.jump 0) = .cont) ∧
    BytesAtCursor (having fresh [0xEC]) (encode .nop) ∧ verdictOf false .nop = .endCycle := by
  refine ⟨fun n hn => ⟨rfl, by omega, rfl, rfl, rfl, rfl, jumpSelf_bytes, rfl⟩, ⟨fun k b h => ?_, by decide⟩, rfl⟩
  match k with
  | 0 => cases h; decide
  | k + 1 => cases h

theorem test_witness_StraddleIsRefused :
    Memory.read (having { fresh with cursor := 0xFFFF } [0xEE]).mem 0xFFFF = some 0xEE ∧
    Memory.read (having { fresh with cursor := 0xFFFF } [0xFF]).mem 0xFFFF = some 0xFF ∧
    Memory.read (having { fresh with cursor := 0xFFFE } [0xF1]).mem 0xFFFE = some 0xF1 ∧
    Memory.read (having { fresh with cursor := 0xFFFE } [0xFB]).mem 0xFFFE = some 0xFB ∧
    Memory.read (having { fresh with cursor := 0xFFFE } [0xFD]).mem 0xFFFE = some 0xFD := by decide

/-- No opcode byte; an opcode byte with its last operand byte missing. -/
theorem test_witness_UnallocatedFetchIsRefused :
    Memory.read State.reset.mem (0 + 0) = none ∧
    Memory.read (having { fresh with cursor := 0xFFFD } [0xEE, 0x00]).mem (0 + 0xFFFD) = some 0xEE ∧
    2 < lengthOf opc 0xEE ∧ 0xFFFD + lengthOf opc 0xEE ≤ 0x10000 ∧
    Memory.read (having { fresh with cursor := 0xFFFD } [0xEE, 0x00]).mem (0 + 0xFFFD + 2) = none := by decide

/-- A fresh Track with the cursor at the top of its 64 KiB window, over the memory `m`. -/
def atTop (m : Memory) : State := { State.reset with track := { fresh with cursor := 0xFFFF }, mem := m }

theorem atTop_straddles (m : Memory) (h : Memory.read m 0xFFFF = some 0xEE) :
    update (atTop m) = .refused .cursorStraddle := by
  have hg : gate (atTop m) = .decodes (atTop m) := rfl
  have ha : (atTop m).track.address 0 = 0xFFFF := by simp [atTop, Track.address, Track.reset]
  have hm : (atTop m).mem = m := rfl
  have hs : straddles (atTop m).track.cursor (lengthOf opc 0xEE) = true := by
    have : straddles 0xFFFF (lengthOf opc 0xEE) = true := by decide
    exact this
  have hd : dispatch (atTop m) = .refused .cursorStraddle := by
    rw [dispatch, fetch, ha, hm, h]
    simp only [hs, if_true]
  rw [update, hg]
  simp only [dispatchGuard, decodeLoop, hd]

theorem window_read (o : Nat) (h : o ≤ 0xFFFF) :
    Memory.read (Memory.load [] 0 (List.replicate 0x10000 0xEE)) o = some 0xEE := by
  have := Memory.read_load [] 0 o (List.replicate 0x10000 0xEE) 0xEE (by rw [List.getElem?_replicate]; simp; omega)
  rwa [Nat.zero_add] at this

/-- Nothing allocated; and a whole window of `0xEE` with the cursor at its last byte. -/
theorem test_witness_UpdateRefusesOnlyTwoWays :
    update State.reset = .refused .outOfAllocated ∧
    ∃ m, update (atTop m) = .refused .cursorStraddle ∧
      ∀ o, o ≤ 0xFFFF → (Memory.read (atTop m).mem ((atTop m).track.base + o)).isSome = true := by
  have key : ∀ m : Memory, (∀ o, o ≤ 0xFFFF → Memory.read m o = some 0xEE) →
      update (atTop m) = .refused .cursorStraddle ∧
        ∀ o, o ≤ 0xFFFF → (Memory.read (atTop m).mem ((atTop m).track.base + o)).isSome = true := by
    intro m h
    refine ⟨atTop_straddles m (h _ (by decide)), fun o ho => ?_⟩
    have : (atTop m).track.base + o = o := Nat.zero_add o
    rw [this, show (atTop m).mem = m from rfl, h o ho]
    rfl
  exact ⟨rfl, _, key _ window_read⟩

theorem test_witness_NopAdvancesAndEnds :
    jumpSelf.track.sentSyscall = false ∧ jumpSelf.track.sentPlay = false := by decide

theorem test_witness_HaltSetsSentHalt :
    State.reset.track.sentSyscall = false ∧ State.reset.track.sentPlay = false ∧
      (having { fresh with sentHalt := true } []).track.sentHalt = true := ⟨rfl, rfl, rfl⟩

/-- Both arms of the two conditional jumps. -/
theorem test_witness_branches :
    State.reset.track.accumulator = false ∧ (having { fresh with accumulator := true } []).track.accumulator = true := by
  decide

/-- One disjunct after the other, at `register = v`. -/
theorem test_witness_ComparesWriteAccumulator :
    (true = true ↔ fresh.register.toNat = (0 : Byte).toNat) ∧
    (false = true ↔ fresh.register.toNat < (0 : Byte).toNat) ∧
    (false = true ↔ fresh.register.toNat > (0 : Byte).toNat) ∧
    (true = true ↔ fresh.register.toNat ≤ (0 : Byte).toNat) ∧
    (true = true ↔ fresh.register.toNat ≥ (0 : Byte).toNat) := by decide

theorem test_witness_SyscallRequestsHost : State.reset.track.sentPlay = false := rfl

theorem test_witness_PlayRequestsNote : State.reset.track.sentSyscall = false := rfl

theorem test_witness_NoteRequestsItself :
    (0xEB : Byte).toNat < 0xEC ∧ State.reset.track.sentSyscall = false := by decide

/-- The widths of the codec's statements, each with a sequence of its length. -/
theorem test_witness_codec_shapes :
    ((1 : Nat) = 1 ∨ 1 = 2 ∨ 1 = 4) ∧ ([0, 1, 2, 3, 4, 5, 6, -7] : List Int).length = 8 / 1 ∧
    ((2 : Nat) = 1 ∨ 2 = 2 ∨ 2 = 4) ∧ ([4, 5, -1, 7] : List Int).length = 8 / 2 ∧
    ((4 : Nat) = 1 ∨ 4 = 2 ∨ 4 = 4) ∧ ([31, 42] : List Int).length = 8 / 4 := by decide

theorem test_witness_BadCodecShapeIsRefused :
    ¬((3 : Nat) = 1 ∨ 3 = 2 ∨ 3 = 4) ∧ ¬((0 : Nat) = 1 ∨ 0 = 2 ∨ 0 = 4) ∧
    ([1, 2, 3] : List Int).length ≠ 8 / 2 := by decide

/-- The Grid `g4` of V-SET-7 and its two bytes. -/
def g4 : Grid := ⟨0x30, 4, 2, 2⟩

/-- The machine of V-SET-7. -/
def g4State : State := { State.reset with mem := Memory.load [] 0x30 [0x1B, 0xE4] }

theorem g4_wellFormed : WellFormedGrid g4State.mem g4 := by
  refine ⟨by decide, by decide, fun a h1 h2 => ?_⟩
  have h3 : 0x30 ≤ a := h1
  have h4 : a < 0x32 := h2
  have h5 : a = 0x30 ∨ a = 0x31 := by omega
  rcases h5 with rfl | rfl <;> decide

theorem test_witness_IllFormedGridIsRefused :
    ¬WellFormedGrid State.reset.mem ⟨0x40, 6, 2, 2⟩ ∧ ¬WellFormedGrid State.reset.mem g4 ∧
    (⟨0x60, 0, 5, 4⟩ : Grid).width % (8 / (⟨0x60, 0, 5, 4⟩ : Grid).fieldWidth) = 0 ∧
    (⟨0x60, 4, 0, 2⟩ : Grid).width % (8 / (⟨0x60, 4, 0, 2⟩ : Grid).fieldWidth) = 0 := by
  refine ⟨fun h => absurd h.2.1 (by decide), fun h => ?_, by decide, by decide⟩
  exact absurd (h.2.2 0x30 (by decide) (by decide)) (by decide)

theorem test_witness_GridDecoder :
    ((g4.fieldWidth = 1 ∨ g4.fieldWidth = 2 ∨ g4.fieldWidth = 4) ∧ g4.width % (8 / g4.fieldWidth) = 0) ∧
    InGrid g4 3 1 ∧ InGrid g4 0 0 ∧
    (g4.baseOffset ≤ 0x31 ∧ 0x31 < g4.baseOffset + g4.height * (g4.width / (8 / g4.fieldWidth)) ∧
      3 < 8 / g4.fieldWidth) := by
  refine ⟨by decide, ?_, ?_, by decide⟩ <;> exact ⟨by decide, by decide, by decide, by decide⟩

/-- The hypotheses of `GetAtReadsField`, `SetAtReplacesField` and `GetAtAfterSetAt`, in bounds and out. -/
theorem test_witness_grid_access :
    WellFormedGrid g4State.mem g4 ∧ InGrid g4 3 1 ∧ InGrid g4 2 1 ∧ ¬((2 : Int) = 3 ∧ (1 : Int) = 1) ∧
    ¬InGrid g4 4 0 ∧ ¬InGrid g4 0 2 ∧ ¬InGrid g4 (-1) 0 := by
  refine ⟨g4_wellFormed, ⟨by decide, by decide, by decide, by decide⟩, ⟨by decide, by decide, by decide, by decide⟩,
    by decide, fun h => absurd h.2.1 (by decide), fun h => absurd h.2.2.2 (by decide),
    fun h => absurd h.1 (by decide)⟩

theorem test_witness_TerminalIsPermanent :
    Quiet (having { fresh with sentHalt := true, counter := 1 } []) ∧
      Terminal (having { fresh with sentHalt := true, counter := 1 } []) := ⟨⟨rfl, rfl⟩, rfl⟩

theorem test_witness_IdleTickOnlyCounts :
    Quiet (having { fresh with counter := 1, sentPlay := true } []) ∧
      (having { fresh with counter := 1, sentPlay := true } []).track.sentHalt = false ∧
      0 < (having { fresh with counter := 1, sentPlay := true } []).track.counter.toNat :=
  ⟨⟨rfl, rfl⟩, rfl, by decide⟩

theorem test_witness_WaitTickReloadsAndClears :
    Quiet (having { fresh with wait := 1, ticksRate := 4 } []) ∧
      (having { fresh with wait := 1, ticksRate := 4 } []).track.sentHalt = false ∧
      (having { fresh with wait := 1, ticksRate := 4 } []).track.counter = 0 ∧
      0 < (having { fresh with wait := 1, ticksRate := 4 } []).track.wait.toNat :=
  ⟨⟨rfl, rfl⟩, rfl, rfl, by decide⟩

theorem test_witness_StepsRefineUpdate : Quiet jumpSelf := ⟨rfl, rfl⟩

theorem jumpSelf_chain (k : Nat) :
    dispatches (k + 1) (atLoopEntry jumpSelf) = .next { atLoopEntry jumpSelf with verdict := .cont } := by
  have h1 : dispatch (atLoopEntry jumpSelf) = .next { atLoopEntry jumpSelf with verdict := .cont } := rfl
  have h2 : dispatch { atLoopEntry jumpSelf with verdict := .cont } =
      .next { atLoopEntry jumpSelf with verdict := .cont } := rfl
  have h3 : ∀ j, dispatches j { atLoopEntry jumpSelf with verdict := .cont } =
      .next { atLoopEntry jumpSelf with verdict := .cont } := by
    intro j
    induction j with
    | zero => rfl
    | succ j ih => rw [dispatches, h2]; exact ih
  rw [dispatches, h1]
  exact h3 k

theorem test_witness_GuardCutsTheCycle :
    Ready jumpSelf ∧
      dispatches 255 (atLoopEntry jumpSelf) = .next { atLoopEntry jumpSelf with verdict := .cont } ∧
      ∀ k u, 1 ≤ k → k ≤ 255 → dispatches k (atLoopEntry jumpSelf) = .next u → u.verdict = .cont := by
  refine ⟨jumpSelf_ready, jumpSelf_chain 254, fun k u h1 _ h => ?_⟩
  obtain ⟨j, rfl⟩ : ∃ j, k = j + 1 := ⟨k - 1, by omega⟩
  rw [jumpSelf_chain j] at h
  cases h
  rfl

/-- A wait tick, and a decode tick. -/
theorem test_witness_CycleTickReloadsCounter :
    (having { fresh with wait := 1, ticksRate := 4 } []).track.sentHalt = false ∧
    (having { fresh with wait := 1, ticksRate := 4 } []).track.counter = 0 ∧
    (∃ t, update (having { fresh with wait := 1, ticksRate := 4 } []) = .next t) ∧
    (having { fresh with ticksRate := 4 } [0xEC]).track.counter = 0 ∧
    ∃ t, update (having { fresh with ticksRate := 4 } [0xEC]) = .next t :=
  ⟨rfl, rfl, ⟨_, rfl⟩, rfl, ⟨_, rfl⟩⟩

theorem having_inv (t : Track) (bytes : List Byte) (h : TrackInv t) : MachineInv (having t bytes) :=
  ⟨Memory.wf_load List.Pairwise.nil _ _, h, fun _ hm => (nomatch hm), fun _ hn => (nomatch hn)⟩

/-- An update with the syscall event, one with the play event, and one with the halt event. -/
theorem test_witness_AtMostOneEvent :
    ¬(fresh.sentSyscall = true ∧ fresh.sentPlay = true) ∧
    (∃ t, update (having fresh [0xF1, 0x34, 0x12]) = .next t ∧ t.output = .events ⟨false, some 0x1234, none⟩) ∧
    (∃ t, update (having fresh [0x0A]) = .next t ∧ t.output = .events ⟨false, none, some 10⟩) ∧
    ∃ t, update (having { fresh with sentHalt := true } []) = .next t ∧ t.output = .events ⟨true, none, none⟩ :=
  ⟨by decide, ⟨_, rfl, rfl⟩, ⟨_, rfl, rfl⟩, ⟨_, rfl, rfl⟩⟩

theorem test_witness_IdleTicksBetweenCycles :
    Quiet (having { fresh with counter := 3 } []) ∧
      (having { fresh with counter := 3 } []).track.sentHalt = false ∧
      1 ≤ 3 ∧ 3 ≤ (having { fresh with counter := 3 } []).track.counter.toNat :=
  ⟨⟨rfl, rfl⟩, rfl, by decide, by decide⟩

theorem test_witness_WaitSuppressesCycles :
    Quiet (having { fresh with counter := 1, ticksRate := 1, wait := 2 } []) ∧
      (having { fresh with counter := 1, ticksRate := 1, wait := 2 } []).track.sentHalt = false ∧
      (having { fresh with counter := 1, ticksRate := 1, wait := 2 } []).track.counter =
        (having { fresh with counter := 1, ticksRate := 1, wait := 2 } []).track.ticksRate :=
  ⟨⟨rfl, rfl⟩, rfl, rfl⟩

/-- Inside the loop, between operations, and at a host operation. -/
theorem test_witness_StepKeepsInvariant :
    MachineInv jumpSelf ∧ (∃ t, step jumpSelf = .next t) ∧
    MachineInv { jumpSelf with phase := .decoding 254, verdict := .cont } ∧
    (∃ t, step { jumpSelf with phase := .decoding 254, verdict := .cont } = .next t) ∧
    ∃ t, step { jumpSelf with pending := [.load 7 [1]] } = .next t := by
  have h := having_inv fresh [0xEE, 0x00, 0x00] ⟨by decide, by decide, by decide⟩
  refine ⟨h, ⟨_, rfl⟩, ⟨h.1, h.2.1, h.2.2.1, fun n hn => ?_⟩, ⟨_, rfl⟩, ⟨_, rfl⟩⟩
  cases hn
  exact ⟨by decide, by decide, rfl, rfl, rfl, rfl, rfl, rfl, rfl⟩

/-- Whether an instruction changes one field of a state. -/
def changes {α : Type} [DecidableEq α] (i : Instr) (s : State) (field : State → α) : Bool :=
  executed i s (fun t => decide (field t ≠ field s)) == some true

/-- For every clause an instruction that makes the change. -/
theorem test_witness_WritersOfEachElement :
    changes .nop State.reset (fun s => s.track.cursor) = true ∧
    changes (.set 5) State.reset (fun s => s.track.register) = true ∧
    changes (.equal 0) State.reset (fun s => s.track.accumulator) = true ∧
    changes .halt State.reset (fun s => s.track.sentHalt) = true ∧
    changes (.syscall 1) State.reset (fun s => s.track.sentSyscall) = true ∧
    changes (.play 1) State.reset (fun s => s.track.sentPlay) = true ∧
    changes (.ticks 1) State.reset (fun s => s.track.counter) = true ∧
    changes (.ticks16 1) State.reset (fun s => s.track.ticksRate) = true ∧
    changes (.wait 1) State.reset (fun s => s.track.wait) = true ∧
    changes (.instrument 1) State.reset (fun s => s.track.instrument) = true ∧
    changes (.note 1) State.reset (fun s => s.track.note) = true ∧
    changes (.syscall 1) State.reset (fun s => s.track.syscode) = true ∧
    changes (.setAt g4 0 0 1) g4State (fun s => s.mem) = true := by decide

theorem test_witness_VmNeverStores :
    (∃ t, step { jumpSelf with phase := .decoding 1 } = .next t) ∧
    ({ jumpSelf with phase := .decoding 1 } : State).phase ≠ .between ∧
    (∃ t, step jumpSelf = .next t) ∧ jumpSelf.pending = [] := ⟨⟨_, rfl⟩, by decide, ⟨_, rfl⟩, rfl⟩

/-- Two machines that differ in the parked Tracks; one update that returns and one that is refused. -/
theorem test_witness_TracksAreIndependent :
    ({ having fresh [0x0A] with parked := [Track.reset 7] } : State).track = (having fresh [0x0A]).track ∧
    ({ having fresh [0x0A] with parked := [Track.reset 7] } : State).mem = (having fresh [0x0A]).mem ∧
    (∃ t, update (having fresh [0x0A]) = .next t) ∧ update (having fresh []) = .refused .outOfAllocated :=
  ⟨rfl, rfl, ⟨_, rfl⟩, rfl⟩

theorem test_witness_SelectingTracksKeepsThem :
    ({ jumpSelf with parked := [Track.reset 7], pending := [.selectTrack 0, .selectTrack 0] } : State).phase =
      .between ∧
    ({ jumpSelf with parked := [Track.reset 7], pending := [.selectTrack 0, .selectTrack 0] } : State).pending =
      [.selectTrack 0, .selectTrack 0] ∧
    ({ jumpSelf with parked := [Track.reset 7], pending := [.selectTrack 0, .selectTrack 0] } : State).parked[0]? =
      some (Track.reset 7) := by decide

/-- The hypotheses of the clauses on `update`, Tracks, Grids and memory. -/
theorem test_witness_PendingOperationIsRun_host :
    jumpSelf.phase = .between ∧
    ({ jumpSelf with pending := [.update] } : State).pending = [.update] ∧
    ({ jumpSelf with pending := [.reset 0x40] } : State).pending = [.reset 0x40] ∧
    ({ jumpSelf with pending := [.newTrack 7] } : State).pending = [.newTrack 7] ∧
    ({ jumpSelf with parked := [Track.reset 7], pending := [.selectTrack 0] } : State).pending = [.selectTrack 0] ∧
    ({ jumpSelf with parked := [Track.reset 7], pending := [.selectTrack 0] } : State).parked[0]? =
      some (Track.reset 7) ∧
    ({ jumpSelf with pending := [.selectTrack 0] } : State).parked[0]? = none ∧
    ({ jumpSelf with pending := [.newGrid g4] } : State).pending = [.newGrid g4] ∧
    ({ jumpSelf with pending := [.load 7 [1, 2]] } : State).pending = [.load 7 [1, 2]] := by decide

/-- The hypotheses of the clauses on the codec's calls. -/
theorem test_witness_PendingOperationIsRun_codec :
    g4State.phase = .between ∧
    ({ g4State with pending := [.split 0x1B 2] } : State).pending = [.split 0x1B 2] ∧
    ({ g4State with pending := [.join [1, 2] 4] } : State).pending = [.join [1, 2] 4] ∧
    ({ g4State with grids := [g4], pending := [.getAt 0 2 0] } : State).pending = [.getAt 0 2 0] ∧
    ({ g4State with grids := [g4], pending := [.getAt 0 2 0] } : State).grids[0]? = some g4 ∧
    ({ g4State with grids := [g4], pending := [.getAt 1 2 0] } : State).grids[1]? = none ∧
    ({ g4State with grids := [g4], pending := [.setAt 0 2 0 7] } : State).pending = [.setAt 0 2 0 7] ∧
    ({ g4State with grids := [g4], pending := [.setAt 0 2 0 7] } : State).grids[0]? = some g4 ∧
    ({ g4State with grids := [g4], pending := [.setAt 1 2 0 7] } : State).grids[1]? = none := by decide

/-- The hypotheses of the clauses on independence: a tick that returns, one that is refused, a step in the loop. -/
theorem test_witness_PendingOperationIsRun_ticks :
    (∃ t, tick { jumpSelf with pending := [] } = .next t) ∧
    tick { State.reset with pending := [] } = .refused .outOfAllocated ∧
    ∃ t, step { jumpSelf with phase := .decoding 3 } = .next t := ⟨⟨_, rfl⟩, rfl, ⟨_, rfl⟩⟩

theorem test_witness_ReadAfterWrite : Memory.wf (Memory.load [] 0x30 [0x1B, 0xE4]) :=
  Memory.wf_load List.Pairwise.nil _ _

theorem test_witness_AssemblerContract :
    [AsmCall.ticks 3, .play 60, .jump 0x10002].map AsmCall.instr =
      [Instr.ticks 3, .play 60, .jump 2].map some := by decide

theorem test_witness_AssemblerAppends : (AsmCall.jump 0x1234).bytes[2]? = some 0x12 := by decide

end Sys2Proof.Tests
end

/-! ## State family (spec/10_state.md): writers of the elements, the invariant of R38, waiting, loading -/

namespace Sys2Proof.Machine

open Sys2Proof Sys2Proof.Safety

/-! ### What an instruction does to the Track -/

/-- The Track an instruction leaves; a branch is a jump to its target or to the next instruction, and a codec call
leaves the Track as it was. `exec_track` and `exec_vm_eq` tie it to `exec`. -/
def Track.after (t : Track) : Instr → Track
  | .nop => t.advance 1
  | .halt => t.requestHalt.advance 1
  | .jump a => t.jumpTo a
  | .ifJump a => t.jumpTo (if t.accumulator then a else t.cursor + BitVec.ofNat 16 3)
  | .ifNotJump a => t.jumpTo (if t.accumulator then t.cursor + BitVec.ofNat 16 3 else a)
  | .syscall c => (t.requestSyscall c).advance 3
  | .set v => (t.setRegister v).advance 2
  | .add v => (t.setRegister (t.register + v)).advance 2
  | .sub v => (t.setRegister (t.register - v)).advance 2
  | .equal v => (t.setAccumulator (cmpEqual t.register v)).advance 2
  | .lt v => (t.setAccumulator (cmpLt t.register v)).advance 2
  | .gt v => (t.setAccumulator (cmpGt t.register v)).advance 2
  | .ltEqual v => (t.setAccumulator (cmpLtEqual t.register v)).advance 2
  | .gtEqual v => (t.setAccumulator (cmpGtEqual t.register v)).advance 2
  | .ticks v => (t.setRate (zext16 v)).advance 2
  | .ticks16 v => (t.setRate v).advance 3
  | .wait v => (t.setWait (zext16 v)).advance 2
  | .wait16 v => (t.setWait v).advance 3
  | .instrument v => (t.setInstrument v).advance 2
  | .play v => (t.requestPlay v).advance 2
  | .note b => (t.requestPlay b).advance 1
  | .split _ _ | .join _ _ | .getAt _ _ _ | .setAt _ _ _ _ => t

/-- A VM instruction completes on every state: the Track's next value and the verdict of R120, nothing else. -/
theorem exec_vm_eq {i : Instr} (h : i.isVm = true) (s : State) :
    exec i s = .next (s.retire (s.track.after i) (verdictOf s.track.accumulator i)) := by
  cases i with
  | ifJump a =>
    simp only [exec, execIfJump, State.branch, Track.after, verdictOf]
    cases s.track.accumulator <;> rfl
  | ifNotJump a =>
    simp only [exec, execIfNotJump, State.branch, Track.after, verdictOf]
    cases s.track.accumulator <;> rfl
  | split b w => cases h
  | join f w => cases h
  | getAt g x y => cases h
  | setAt g x y v => cases h
  | _ => rfl

theorem Track.after_of_codec {i : Instr} (h : i.isVm = false) (t : Track) : t.after i = t := by
  cases i with
  | split b w => rfl
  | join f w => rfl
  | getAt g x y => rfl
  | setAt g x y v => rfl
  | _ => cases h

theorem exec_track {i : Instr} {s t : State} (h : exec i s = .next t) : t.track = s.track.after i := by
  cases hv : i.isVm with
  | true => rw [exec_vm_eq hv] at h; cases h; rfl
  | false =>
    obtain ⟨m, o, rfl, -⟩ := exec_codec hv h
    exact (Track.after_of_codec hv s.track).symm

/-- A dispatch that completes has executed some VM instruction. -/
theorem dispatch_next {s u : State} (h : dispatch s = .next u) :
    ∃ i, u = s.retire (s.track.after i) (verdictOf s.track.accumulator i) := by
  rcases dispatch_cases s with ⟨i, f, v, hi, hv, -, -⟩ | ⟨r, -, hd⟩
  · simp only [dispatch, hi, exec_vm_eq hv] at h
    cases h
    exact ⟨i, rfl⟩
  · rw [hd] at h; cases h

/-! ### The writers of each element (R20 to R34) -/

section Writers

variable {i : Instr} {t : Track}

theorem Track.after_base : (t.after i).base = t.base := by cases i <;> rfl

theorem Track.after_register_ne (h : (t.after i).register ≠ t.register) :
    (∃ v, i = .set v) ∨ (∃ v, i = .add v) ∨ (∃ v, i = .sub v) := by
  cases i with
  | set v => exact .inl ⟨v, rfl⟩
  | add v => exact .inr (.inl ⟨v, rfl⟩)
  | sub v => exact .inr (.inr ⟨v, rfl⟩)
  | _ => exact (h rfl).elim

theorem Track.after_accumulator_ne (h : (t.after i).accumulator ≠ t.accumulator) :
    (∃ v, i = .equal v) ∨ (∃ v, i = .lt v) ∨ (∃ v, i = .gt v) ∨ (∃ v, i = .ltEqual v) ∨
      (∃ v, i = .gtEqual v) := by
  cases i with
  | equal v => exact .inl ⟨v, rfl⟩
  | lt v => exact .inr (.inl ⟨v, rfl⟩)
  | gt v => exact .inr (.inr (.inl ⟨v, rfl⟩))
  | ltEqual v => exact .inr (.inr (.inr (.inl ⟨v, rfl⟩)))
  | gtEqual v => exact .inr (.inr (.inr (.inr ⟨v, rfl⟩)))
  | _ => exact (h rfl).elim

theorem Track.after_sentHalt_ne (h : (t.after i).sentHalt ≠ t.sentHalt) :
    i = .halt ∧ (t.after i).sentHalt = true := by
  cases i with
  | halt => exact ⟨rfl, rfl⟩
  | _ => exact (h rfl).elim

theorem Track.after_sentSyscall_ne (h : (t.after i).sentSyscall ≠ t.sentSyscall) :
    (∃ c, i = .syscall c) ∧ (t.after i).sentSyscall = true := by
  cases i with
  | syscall c => exact ⟨⟨c, rfl⟩, rfl⟩
  | _ => exact (h rfl).elim

theorem Track.after_sentPlay_ne (h : (t.after i).sentPlay ≠ t.sentPlay) :
    ((∃ v, i = .play v) ∨ (∃ b, i = .note b)) ∧ (t.after i).sentPlay = true := by
  cases i with
  | play v => exact ⟨.inl ⟨v, rfl⟩, rfl⟩
  | note b => exact ⟨.inr ⟨b, rfl⟩, rfl⟩
  | _ => exact (h rfl).elim

theorem Track.after_rate_ne (h : (t.after i).counter ≠ t.counter ∨ (t.after i).ticksRate ≠ t.ticksRate) :
    (∃ v, i = .ticks v) ∨ (∃ v, i = .ticks16 v) := by
  cases i with
  | ticks v => exact .inl ⟨v, rfl⟩
  | ticks16 v => exact .inr ⟨v, rfl⟩
  | _ => exact (h.elim (· rfl) (· rfl)).elim

theorem Track.after_wait_ne (h : (t.after i).wait ≠ t.wait) : (∃ v, i = .wait v) ∨ (∃ v, i = .wait16 v) := by
  cases i with
  | wait v => exact .inl ⟨v, rfl⟩
  | wait16 v => exact .inr ⟨v, rfl⟩
  | _ => exact (h rfl).elim

theorem Track.after_instrument_ne (h : (t.after i).instrument ≠ t.instrument) : ∃ v, i = .instrument v := by
  cases i with
  | instrument v => exact ⟨v, rfl⟩
  | _ => exact (h rfl).elim

theorem Track.after_note_ne (h : (t.after i).note ≠ t.note) : (∃ v, i = .play v) ∨ (∃ b, i = .note b) := by
  cases i with
  | play v => exact .inl ⟨v, rfl⟩
  | note b => exact .inr ⟨b, rfl⟩
  | _ => exact (h rfl).elim

theorem Track.after_syscode_ne (h : (t.after i).syscode ≠ t.syscode) : ∃ c, i = .syscall c := by
  cases i with
  | syscall c => exact ⟨c, rfl⟩
  | _ => exact (h rfl).elim

/-- Only a VM instruction changes any element of a Track. -/
theorem isVm_of_after_ne (h : t.after i ≠ t) : i.isVm = true := by
  by_contra hv
  exact h (Track.after_of_codec (Bool.eq_false_iff.mpr hv) t)

end Writers

theorem exec_mem_ne {i : Instr} {s t : State} (he : exec i s = .next t) (h : t.mem ≠ s.mem) :
    ∃ g x y v, i = .setAt g x y v := by
  cases i with
  | setAt g x y v => exact ⟨g, x, y, v, rfl⟩
  | split b w =>
    simp only [exec, execSplit] at he
    split at he
    · cases he; exact (h rfl).elim
    · cases he
  | join f w =>
    simp only [exec, execJoin] at he
    split at he
    · cases he; exact (h rfl).elim
    · cases he
  | getAt g x y =>
    simp only [exec, execGetAt] at he
    split at he
    · split at he
      · split at he
        · cases he; exact (h rfl).elim
        · cases he
      · cases he; exact (h rfl).elim
    · cases he
  | _ =>
    rw [exec_vm_eq rfl] at he
    cases he
    exact (h rfl).elim

/-- Settles O51: every element's writers, one lemma per element. -/
theorem writersOfEachElement : Obligations.WritersOfEachElement := by
  intro i s t h
  refine ⟨?_, fun hc => isVm_of_after_ne (t := s.track) fun ht => hc ?_, ?_⟩
  · rw [exec_track h, Track.after_base]
  · rw [exec_track h, ht]
  · simp only [exec_track h]
    exact ⟨Track.after_register_ne, Track.after_accumulator_ne, Track.after_sentHalt_ne,
      Track.after_sentSyscall_ne, Track.after_sentPlay_ne, Track.after_rate_ne, Track.after_wait_ne,
      Track.after_instrument_ne, Track.after_note_ne, Track.after_syscode_ne, exec_mem_ne h⟩

/-! ### The counter of a cycle tick (R38) -/

/-- An instruction sets `ticksRate` and `counter` to the same value, or leaves both. -/
theorem Track.after_counter_eq_rate (i : Instr) {t : Track} (h : t.counter = t.ticksRate) :
    (t.after i).counter = (t.after i).ticksRate := by
  cases i with
  | ticks v => rfl
  | ticks16 v => rfl
  | _ => exact h

/-- What every instruction keeps of a Track, the decode loop keeps. -/
theorem decodeLoop_keeps {P : Track → Prop} (hP : ∀ i t, P t → P (t.after i)) (n : Nat) {s t : State}
    (h : decodeLoop n s = .next t) (hs : P s.track) : P t.track := by
  induction n generalizing s with
  | zero => cases h; exact hs
  | succ n ih =>
    cases hd : dispatch s with
    | next u =>
      simp only [decodeLoop, hd] at h
      obtain ⟨i, rfl⟩ := dispatch_next hd
      have hu := hP i s.track hs
      split at h
      · cases h; exact hu
      · exact ih h hu
    | fault r => exact nomatch r
    | refused r => simp [decodeLoop, hd] at h

/-- An `update()` that the gates let into the decode loop. -/
theorem update_decodes {s u t : State} (hg : gate s = .decodes u) (h : update s = .next t) :
    ∃ v, decodeLoop dispatchGuard u = .next v ∧ t = v.finish := by
  simp only [update, hg] at h
  split at h
  · cases h; exact ⟨_, ‹_›, rfl⟩
  · cases h
  · cases h

/-- Settles O45: step 3 loads the counter, and no instruction parts it from the rate. -/
theorem cycleTickReloadsCounter : Obligations.CycleTickReloadsCounter := by
  intro s t hh hc h
  rcases gate_cases s with ⟨hh', -⟩ | ⟨-, hc', -⟩ | ⟨-, -, -, hg⟩ | ⟨-, -, -, hg⟩
  · rw [hh] at hh'; cases hh'
  · exact (hc' hc).elim
  · simp only [update, hg] at h; cases h; rfl
  · obtain ⟨v, hv, rfl⟩ := update_decodes hg h
    rw [State.finish_track]
    exact decodeLoop_keeps (P := fun t => t.counter = t.ticksRate) (fun i _ => Track.after_counter_eq_rate i)
      dispatchGuard hv rfl

/-! ### The invariant (R38) -/

/-- What holds of the current Track before every dispatch of a decode loop (R116 steps 1 to 4, R122). -/
def LoopTrack (t : Track) : Prop :=
  t.sentHalt = false ∧ t.sentSyscall = false ∧ t.sentPlay = false ∧ t.counter = t.ticksRate ∧ t.wait = 0

theorem loopTrack_of_loopInv {s : State} {n : Nat} (h : LoopInv s n) : LoopTrack s.track := by
  obtain ⟨-, -, hh, hs, hp, hc, hw, -, -⟩ := h
  exact ⟨hh, hs, hp, hc, hw⟩

theorem LoopTrack.trackInv {t : Track} (h : LoopTrack t) : TrackInv t := by
  obtain ⟨-, hs, hp, hc, -⟩ := h
  exact ⟨by simp [hs], hc ▸ le_rfl, fun _ => ⟨hs, hp, hc⟩⟩

/-- The first instruction to raise a flag raises only one. -/
theorem LoopTrack.trackInv_after {t : Track} (h : LoopTrack t) (i : Instr) : TrackInv (t.after i) := by
  obtain ⟨hh, hs, hp, hc, -⟩ := h
  have hc' := Track.after_counter_eq_rate i hc
  refine ⟨fun ⟨hs', hp'⟩ => ?_, hc' ▸ le_rfl, fun hh' => ?_⟩
  · obtain ⟨⟨c, rfl⟩, -⟩ := Track.after_sentSyscall_ne (i := i) (t := t) (by simp [hs, hs'])
    obtain ⟨hi | hi, -⟩ := Track.after_sentPlay_ne (i := .syscall c) (t := t) (by simp [hp, hp'])
    · obtain ⟨v, hi⟩ := hi; cases hi
    · obtain ⟨b, hi⟩ := hi; cases hi
  · obtain ⟨rfl, -⟩ := Track.after_sentHalt_ne (i := i) (t := t) (by simp [hh, hh'])
    exact ⟨hs, hp, hc'⟩

/-- A zero-tick instruction writes none of the elements `LoopTrack` speaks of (R122). -/
theorem LoopTrack.after {t : Track} (h : LoopTrack t) {i : Instr} (hv : verdictOf t.accumulator i = .cont) :
    LoopTrack (t.after i) := by
  cases i with
  | jump _ | ifJump _ | ifNotJump _ | set _ | add _ | sub _ | equal _ | lt _ | gt _ | ltEqual _ | gtEqual _
  | instrument _ => exact h
  | _ => cases hv

theorem trackInv_reset (b : Nat) : TrackInv (Track.reset b) := ⟨by simp, le_rfl, by simp⟩

/-- Between operations the invariant says nothing of the decode loop. -/
theorem machineInv_of_between {s : State} (hp : s.phase = .between) (hm : Memory.wf s.mem)
    (ht : TrackInv s.track) (hk : ∀ t ∈ s.parked, TrackInv t) : MachineInv s :=
  ⟨hm, ht, hk, fun n hn => by rw [hp] at hn; cases hn⟩

/-- A turn of the decode loop re-establishes the invariant, whether the loop ends or goes on. -/
theorem dispatchStep_keeps_inv {n : Nat} {s t : State} (h : dispatchStep n s = .next t)
    (hl : LoopTrack s.track) (ho : s.output = .nothing) (hm : Memory.wf s.mem)
    (hk : ∀ t ∈ s.parked, TrackInv t) : MachineInv t := by
  rcases dispatchStep_cases h with ⟨-, rfl⟩ | ⟨u, -, hd, ⟨-, rfl⟩ | ⟨hv, hn, rfl⟩⟩
  · exact machineInv_of_between rfl hm hl.trackInv hk
  · obtain ⟨i, rfl⟩ := dispatch_next hd
    exact machineInv_of_between rfl hm (hl.trackInv_after i) hk
  · obtain ⟨i, rfl⟩ := dispatch_next hd
    refine ⟨hm, hl.trackInv_after i, hk, fun k hk => ?_⟩
    cases hk
    obtain ⟨hh, hs, hp, hc, hw⟩ := hl.after hv
    exact ⟨Nat.le_add_left 1 n, hn, hh, hs, hp, hc, hw, hv, ho⟩

theorem trackInv_countDown {t : Track} (h : TrackInv t) (hh : t.sentHalt = false) (hc : t.counter ≠ 0) :
    TrackInv t.countDown := by
  obtain ⟨hf, hle, -⟩ := h
  refine ⟨hf, ?_, fun hh' => by rw [Track.countDown_sentHalt, hh] at hh'; cases hh'⟩
  rw [Track.countDown_counter, Track.countDown_ticksRate]
  bv_omega

theorem trackInv_startCycle_waitDown (t : Track) : TrackInv t.startCycle.waitDown :=
  ⟨by simp, le_rfl, fun _ => ⟨rfl, rfl, rfl⟩⟩

theorem tick_keeps_inv {s t : State} (hp : s.phase = .between) (hi : MachineInv s) (h : tick s = .next t) :
    MachineInv t := by
  obtain ⟨hm, ht, hk, -⟩ := hi
  rcases gate_cases s with ⟨-, hg⟩ | ⟨hh, hc, hg⟩ | ⟨-, -, -, hg⟩ | ⟨hh, -, hw, hg⟩
  · rw [tick_returned hg] at h; cases h
    exact machineInv_of_between hp hm ht hk
  · rw [tick_returned hg] at h; cases h
    exact machineInv_of_between hp hm (trackInv_countDown ht hh hc) hk
  · rw [tick_returned hg] at h; cases h
    exact machineInv_of_between hp hm (trackInv_startCycle_waitDown s.track) hk
  · rw [tick_decodes hg] at h
    exact dispatchStep_keeps_inv h ⟨hh, rfl, rfl, rfl, hw⟩ rfl hm hk

theorem runHostOp_keeps_inv {op : HostOp} {s t : State} (hp : s.phase = .between) (hi : MachineInv s)
    (h : runHostOp op s = .next t) : MachineInv t := by
  have ⟨hm, ht, hk, _⟩ := hi
  rcases runHostOp_cases h with
    h | ⟨b, rfl⟩ | ⟨b, rfl⟩ | ⟨k, p, hkp, rfl⟩ | ⟨g, rfl⟩ | ⟨a, bytes, rfl⟩ | ⟨i, hv, he⟩
  · exact tick_keeps_inv hp hi h
  · exact machineInv_of_between hp hm (trackInv_reset b) hk
  · refine machineInv_of_between hp hm (trackInv_reset b) fun p hp => ?_
    rcases List.mem_append.mp hp with hp | hp
    · exact hk p hp
    · exact List.mem_singleton.mp hp ▸ ht
  · refine machineInv_of_between hp hm (hk p (List.mem_of_getElem? hkp)) fun q hq => ?_
    rcases List.mem_or_eq_of_mem_set hq with hq | rfl
    · exact hk q hq
    · exact ht
  · exact machineInv_of_between hp hm ht hk
  · exact machineInv_of_between hp (Memory.wf_load hm a bytes) ht hk
  · obtain ⟨m, o, rfl, hw⟩ := exec_codec hv he
    exact machineInv_of_between hp (hw hm) ht hk

/-- Settles O49: memory is empty, the one Track is reset, none is parked and nothing is in progress. -/
theorem resetSatisfiesInvariant : Obligations.ResetSatisfiesInvariant :=
  machineInv_of_between rfl Memory.wf_reset (trackInv_reset 0) fun _ h => nomatch h

/-- Settles O50: by what is in progress, a turn of the decode loop, a tick or a host operation. -/
theorem stepKeepsInvariant : Obligations.StepKeepsInvariant := by
  intro s t hi h
  rcases step_cases h with ⟨n, hp, hd⟩ | ⟨hp, -, ht⟩ | ⟨op, more, hp, -, hr⟩
  · obtain ⟨hm, -, hk, hl⟩ := hi
    obtain ⟨-, -, -, -, -, -, -, -, ho⟩ := hl n hp
    exact dispatchStep_keeps_inv hd (loopTrack_of_loopInv (hl n hp)) ho hm hk
  · exact tick_keeps_inv hp hi ht
  · exact runHostOp_keeps_inv (s := { s with pending := more }) hp hi hr

/-! ### Waiting (R28, R162) -/

/-- What idle and wait ticks keep: nothing comes to be in progress or asked for, and of all the elements only
`counter`, `wait` and the request flags may have changed. -/
def TimingOnly (s t : State) : Prop :=
  Quiet t ∧
    t.track = { s.track with counter := t.track.counter, wait := t.track.wait, sentSyscall := t.track.sentSyscall,
                             sentPlay := t.track.sentPlay } ∧
    t.mem = s.mem ∧ t.parked = s.parked ∧ t.grids = s.grids

theorem TimingOnly.refl {s : State} (h : Quiet s) : TimingOnly s s := ⟨h, rfl, rfl, rfl, rfl⟩

theorem TimingOnly.trans {s t u : State} (h₁ : TimingOnly s t) (h₂ : TimingOnly t u) : TimingOnly s u := by
  obtain ⟨-, ht, hm, hk, hg⟩ := h₁
  obtain ⟨hq, hu, hm', hk', hg'⟩ := h₂
  exact ⟨hq, hu.trans (by rw [ht]), hm'.trans hm, hk'.trans hk, hg'.trans hg⟩

theorem TimingOnly.quiet {s t : State} (h : TimingOnly s t) : Quiet t := h.1

theorem TimingOnly.sentHalt {s t : State} (h : TimingOnly s t) : t.track.sentHalt = s.track.sentHalt := by
  obtain ⟨-, ht, -, -, -⟩ := h
  rw [ht]

theorem TimingOnly.ticksRate {s t : State} (h : TimingOnly s t) : t.track.ticksRate = s.track.ticksRate := by
  obtain ⟨-, ht, -, -, -⟩ := h
  rw [ht]

/-- One idle tick (R123). -/
theorem step_idle {s : State} (hq : Quiet s) (hh : s.track.sentHalt = false) (hc : s.track.counter ≠ 0) :
    step s = .next { s with track := s.track.countDown, output := .events Events.none } := by
  rw [step_quiet hq.1 hq.2]
  rcases gate_cases s with ⟨hh', -⟩ | ⟨-, -, hg⟩ | ⟨-, hc', -⟩ | ⟨-, hc', -⟩
  · rw [hh] at hh'; cases hh'
  · exact tick_returned hg
  · exact (hc hc').elim
  · exact (hc hc').elim

/-- One wait tick (R125). -/
theorem step_wait {s : State} (hq : Quiet s) (hh : s.track.sentHalt = false) (hc : s.track.counter = 0)
    (hw : s.track.wait ≠ 0) :
    step s = .next { s with track := s.track.startCycle.waitDown, output := .events Events.none } := by
  rw [step_quiet hq.1 hq.2]
  rcases gate_cases s with ⟨hh', -⟩ | ⟨-, hc', -⟩ | ⟨-, -, -, hg⟩ | ⟨-, -, hw', -⟩
  · rw [hh] at hh'; cases hh'
  · exact (hc' hc).elim
  · exact tick_returned hg
  · exact (hw hw').elim

/-- As many calls as `counter` says are idle and leave it 0 (R26, R127). -/
theorem runs_idle (c : Nat) {s : State} (hq : Quiet s) (hh : s.track.sentHalt = false)
    (hc : s.track.counter.toNat = c) :
    ∃ t, runs c s = .next t ∧ TimingOnly s t ∧ t.track.counter = 0 ∧ t.track.wait = s.track.wait := by
  induction c generalizing s with
  | zero => exact ⟨s, rfl, .refl hq, by bv_omega, rfl⟩
  | succ c ih =>
    have hs := step_idle hq hh (by bv_omega)
    obtain ⟨t, ht, hto, h0, hw⟩ := ih (s := { s with track := s.track.countDown, output := _ }) hq hh (by
      rw [Track.countDown_counter]
      bv_omega)
    exact ⟨t, by rw [runs_succ hs, ht], .trans ⟨hq, rfl, rfl, rfl, rfl⟩ hto, h0, hw⟩

/-- The waiting time, by induction on `wait`: each cycle tick it suppresses takes `ticksRate` idle ticks and one
wait tick, which loads the counter again. -/
theorem runs_wait (w : Nat) {s : State} (hq : Quiet s) (hh : s.track.sentHalt = false)
    (hc : s.track.counter = s.track.ticksRate) (hw : s.track.wait.toNat = w) :
    ∃ t, runs ((w + 1) * (s.track.ticksRate.toNat + 1) - 1) s = .next t ∧ TimingOnly s t ∧
      t.track.counter = 0 ∧ t.track.wait = 0 := by
  induction w generalizing s with
  | zero =>
    obtain ⟨t, ht, hst, h0, htw⟩ := runs_idle _ hq hh (congrArg BitVec.toNat hc)
    exact ⟨t, by simpa using ht, hst, h0, by rw [htw]; bv_omega⟩
  | succ w ih =>
    obtain ⟨t, ht, hst, h0, htw⟩ := runs_idle _ hq hh (congrArg BitVec.toNat hc)
    have hw0 : t.track.wait ≠ 0 := by rw [htw]; bv_omega
    have hwd : (t.track.wait - 1).toNat = w := by rw [htw]; bv_omega
    have hht := hst.sentHalt.trans hh
    obtain ⟨u, hu, htu, hu0, huw⟩ :=
      ih (s := { t with track := t.track.startCycle.waitDown, output := .events Events.none }) hst.quiet hht rfl hwd
    refine ⟨u, ?_, hst.trans (.trans ⟨hst.quiet, rfl, rfl, rfl, rfl⟩ htu), hu0, huw⟩
    have hcalls : (w + 1 + 1) * (s.track.ticksRate.toNat + 1) - 1 =
        s.track.ticksRate.toNat + ((w + 1) * (s.track.ticksRate.toNat + 1) - 1 + 1) := by
      have : 0 < (w + 1) * (s.track.ticksRate.toNat + 1) := by positivity
      rw [Nat.succ_mul (w + 1)]
      omega
    rw [hcalls, runs_add ht, runs_succ (step_wait hst.quiet hht h0 hw0), ← hst.ticksRate]
    exact hu

/-- Settles O48, by the waiting time `runs_wait`. -/
theorem waitSuppressesCycles : Obligations.WaitSuppressesCycles := by
  intro s hq hh hc
  obtain ⟨t, ht, hst, h0, hw⟩ := runs_wait _ hq hh hc rfl
  have hht := hst.sentHalt.trans hh
  obtain ⟨hqt, htrack, hmem, hparked, hgrids⟩ := hst
  exact ⟨t, ht, ⟨hqt, hht, h0, hw⟩, by rwa [h0, hw] at htrack, hmem, hparked, hgrids⟩

/-! ### Loading (R34, R57, R233) -/

/-- Settles O56: below, inside and above the bytes stored. -/
theorem loadStoresBytes : Obligations.LoadStoresBytes := by
  intro s a bytes
  refine ⟨_, rfl, rfl, fun x => ?_⟩
  split
  case isTrue h =>
    obtain ⟨hax, hxa⟩ := h
    obtain ⟨k, rfl⟩ := Nat.exists_eq_add_of_le hax
    have hk : k < bytes.length := by omega
    rw [Nat.add_sub_cancel_left, List.getElem?_eq_getElem hk]
    exact Memory.read_load s.mem a k bytes _ (List.getElem?_eq_getElem hk)
  case isFalse h =>
    rcases Nat.lt_or_ge x a with hx | hx
    · exact Memory.read_load_below s.mem a x bytes hx
    · exact Memory.read_load_above s.mem a x bytes (by omega)

end Sys2Proof.Machine

/-! ## Memory family (spec/20_memory.md): stores, refused fetches, the host's pending operations -/

namespace Sys2Proof.Machine

open Sys2Proof Sys2Proof.Safety

/-! ### A store changes one byte (R57) -/

/-- Settles O58: the address written reads the value, any other address as before. -/
theorem readAfterWrite : Obligations.ReadAfterWrite := by
  intro m a x v
  refine ⟨?_, fun h => Memory.wf_write h a v⟩
  split
  case isTrue h => rw [h, Memory.read_write_same]
  case isFalse h => exact Memory.read_write_other m a x v h

/-! ### A fetch outside `Allocated` (R54, R56) -/

/-- One unallocated address among them spoils a read of consecutive bytes. -/
theorem Memory.readBytes_eq_none {m : Memory} {a k n : Nat} (hk : k < n) (h : Memory.read m (a + k) = none) :
    Memory.readBytes m a n = none := by
  induction n generalizing a k with
  | zero => cases hk
  | succ n ih =>
    simp only [Memory.readBytes]
    cases k with
    | zero =>
      rw [Nat.add_zero] at h
      rw [h]
    | succ k =>
      rw [ih (Nat.lt_of_succ_lt_succ hk) (by rwa [Nat.add_right_comm])]
      split <;> rfl

theorem straddles_eq_false {cursor : Word} {len : Nat} (h : cursor.toNat + len ≤ 0x10000) :
    straddles cursor len = false :=
  decide_eq_false (by omega)

theorem fetch_of_opcode_unallocated {s : State} (h : Memory.read s.mem (s.track.address 0) = none) :
    fetch s = .error .outOfAllocated := by
  simp only [fetch, h]

theorem fetch_of_operand_unallocated {s : State} {op : Byte}
    (hop : Memory.read s.mem (s.track.address 0) = some op)
    (hs : straddles s.track.cursor (lengthOf opc op) = false)
    (hb : Memory.readBytes s.mem (s.track.address 1) (lengthOf opc op - 1) = none) :
    fetch s = .error .outOfAllocated := by
  simp [fetch, hop, hs, hb]

theorem dispatch_of_fetch_error {s : State} {r : Refusal} (h : fetch s = .error r) : dispatch s = .refused r := by
  simp only [dispatch, h]

/-- Settles O9: the byte that is missing is no opcode byte in the second clause, so it is an operand byte. -/
theorem unallocatedFetchIsRefused : Obligations.UnallocatedFetchIsRefused := by
  refine fun s => ⟨fun h => dispatch_of_fetch_error (fetch_of_opcode_unallocated h), ?_⟩
  intro op k hop hk hlen hnone
  cases k with
  | zero => rw [Nat.add_zero, hop] at hnone; cases hnone
  | succ k =>
    have hread : Memory.read s.mem (s.track.address 1 + k) = none := by
      rwa [Track.address, Nat.add_assoc, Nat.add_comm 1 k]
    exact dispatch_of_fetch_error (fetch_of_operand_unallocated hop (straddles_eq_false hlen)
      (Memory.readBytes_eq_none (by omega) hread))

/-! ### No tick stores (R50, R64) -/

theorem dispatch_mem {s t : State} (h : dispatch s = .next t) : t.mem = s.mem := by
  obtain ⟨hm, -, -, -, -, -⟩ := dispatch_frame h
  exact hm

theorem dispatchStep_mem {n : Nat} {s t : State} (h : dispatchStep n s = .next t) : t.mem = s.mem := by
  rcases dispatchStep_cases h with ⟨-, rfl⟩ | ⟨u, -, hd, ⟨-, rfl⟩ | ⟨-, -, rfl⟩⟩
  · rfl
  · exact (dispatch_mem hd :)
  · exact (dispatch_mem hd :)

theorem tick_mem {s t : State} (h : tick s = .next t) : t.mem = s.mem := by
  rcases gate_cases s with ⟨-, hg⟩ | ⟨-, -, hg⟩ | ⟨-, -, -, hg⟩ | ⟨-, -, -, hg⟩
  · rw [tick_returned hg] at h; cases h; rfl
  · rw [tick_returned hg] at h; cases h; rfl
  · rw [tick_returned hg] at h; cases h; rfl
  · rw [tick_decodes hg] at h
    exact (dispatchStep_mem h :)

/-- Settles O52: such a step is a turn of the decode loop or a tick. -/
theorem vmNeverStores : Obligations.VmNeverStores := by
  intro s t h hvm
  have hmem : t.mem = s.mem := by
    rcases step_cases h with ⟨n, -, hd⟩ | ⟨-, -, ht⟩ | ⟨op, more, hb, hp, -⟩
    · exact dispatchStep_mem hd
    · exact tick_mem ht
    · rcases hvm with hvm | hvm
      · exact (hvm hb).elim
      · rw [hp] at hvm; cases hvm
  exact ⟨hmem, fun a => by rw [hmem]⟩

/-! ### The gates of R116, an equation each -/

theorem gate_halted {s : State} (hh : s.track.sentHalt = true) :
    gate s = .returned (s.returns (.events { Events.none with halt := true })) := if_pos hh

theorem gate_idle {s : State} (hh : s.track.sentHalt = false) (hc : s.track.counter ≠ 0) :
    gate s = .returned { s with track := s.track.countDown, output := .events Events.none } := by
  rw [gate, if_neg (Bool.eq_false_iff.mp hh), if_pos hc]

theorem gate_wait {s : State} (hh : s.track.sentHalt = false) (hc : s.track.counter = 0) (hw : s.track.wait ≠ 0) :
    gate s = .returned { s with track := s.track.startCycle.waitDown, output := .events Events.none } := by
  rw [gate, if_neg (Bool.eq_false_iff.mp hh), if_neg (not_not.mpr hc), if_pos hw]

theorem gate_open {s : State} (hh : s.track.sentHalt = false) (hc : s.track.counter = 0) (hw : s.track.wait = 0) :
    gate s = .decodes { s with track := s.track.startCycle, output := .nothing } := by
  rw [gate, if_neg (Bool.eq_false_iff.mp hh), if_neg (not_not.mpr hc), if_neg (not_not.mpr hw)]

/-! ### Ticks and the pending operations (log entry 3) -/

/-- The outcome with other operations pending in its state; a refusal stays as it is. `tick_withPending` and
`dispatchStep_withPending` tie it to the machine. -/
def withPending (p : List HostOp) : Host.Outcome State Fault Refusal → Host.Outcome State Fault Refusal
  | .next t => .next { t with pending := p }
  | .fault r => .fault r
  | .refused r => .refused r

theorem dispatch_eq_withPending (s : State) (p : List HostOp) :
    dispatch { s with pending := p } = withPending p (dispatch s) := by
  rw [dispatch_withPending]
  cases dispatch s <;> rfl

theorem afterDispatch_withPending (n : Nat) (o : Host.Outcome State Fault Refusal) (p : List HostOp) :
    afterDispatch n (withPending p o) = withPending p (afterDispatch n o) := by
  cases o with
  | next t =>
    cases hv : t.verdict with
    | endCycle => rw [afterDispatch_end (.inl hv)]; exact afterDispatch_end (.inl hv)
    | cont =>
      rcases Nat.lt_or_ge n 255 with hn | hn
      · rw [afterDispatch_cont hv hn]; exact afterDispatch_cont hv hn
      · rw [afterDispatch_end (.inr hn)]; exact afterDispatch_end (.inr hn)
  | fault r => rfl
  | refused r => rfl

theorem dispatchStep_withPending (n : Nat) (s : State) (p : List HostOp) :
    dispatchStep n { s with pending := p } = withPending p (dispatchStep n s) := by
  unfold dispatchStep
  split
  · rw [dispatch_eq_withPending, afterDispatch_withPending]
  · rfl

/-- A tick neither looks at the pending operations nor changes them. -/
theorem tick_withPending (s : State) (p : List HostOp) :
    tick { s with pending := p } = withPending p (tick s) := by
  rcases gate_cases s with ⟨hh, hg⟩ | ⟨hh, hc, hg⟩ | ⟨hh, hc, hw, hg⟩ | ⟨hh, hc, hw, hg⟩
  · rw [tick_returned hg]; exact tick_returned (gate_halted hh)
  · rw [tick_returned hg]; exact tick_returned (gate_idle hh hc)
  · rw [tick_returned hg]; exact tick_returned (gate_wait hh hc hw)
  · rw [tick_decodes hg, tick_decodes (gate_open (s := { s with pending := p }) hh hc hw)]
    exact dispatchStep_withPending 0 { s with track := s.track.startCycle, output := .nothing } p

/-! ### The host's next operation (R60, R210, R211) -/

theorem step_pending {s : State} {op : HostOp} {more : List HostOp} (hp : s.phase = .between)
    (h : s.pending = op :: more) : step s = runHostOp op { s with pending := more } := by
  simp only [step, hp, nextOperation, h]

theorem hostSelectTrack_some {k : Nat} {s : State} {t : Track} (h : s.parked[k]? = some t) :
    hostSelectTrack k s = .next { s with track := t, parked := s.parked.set k s.track, output := .nothing } := by
  simp only [hostSelectTrack, h]

theorem hostSelectTrack_none {k : Nat} {s : State} (h : s.parked[k]? = none) :
    hostSelectTrack k s = .refused .noSuchObject := by
  simp only [hostSelectTrack, h]

/-- An operation on a Grid is the codec call on the descriptor it names, or refused. -/
theorem step_pending_onGrid {s : State} {op : HostOp} {more : List HostOp} {k : Nat} {call : Grid → Instr}
    (hp : s.phase = .between) (h : s.pending = op :: more) (hop : ∀ u, runHostOp op u = onGrid k u call) :
    (∀ g, s.grids[k]? = some g → step s = exec (call g) { s with pending := more }) ∧
      (s.grids[k]? = none → step s = .refused .noSuchObject) := by
  rw [step_pending hp h, hop]
  constructor
  · intro g hg
    simp only [onGrid, hg]
  · intro hn
    simp only [onGrid, hn]

/-- Settles O55: `step_pending` for each operation; ticks and turns of the decode loop commute with
`withPending`. -/
theorem pendingOperationIsRun : Obligations.PendingOperationIsRun := by
  intro s more hp
  refine ⟨step_pending hp, fun _ => step_pending hp, fun _ => step_pending hp, ?select, fun _ => step_pending hp,
    fun _ _ => step_pending hp, fun _ _ => step_pending hp, fun _ _ => step_pending hp,
    fun _ _ _ h => step_pending_onGrid hp h fun _ => rfl, fun _ _ _ _ h => step_pending_onGrid hp h fun _ => rfl,
    ?tickNext, ?tickRefused, ?loopNext⟩
  case select =>
    intro k h
    rw [step_pending hp h]
    exact ⟨fun _ ht => hostSelectTrack_some ht, fun hn => hostSelectTrack_none hn⟩
  case tickNext => exact fun p t h => (tick_withPending { s with pending := [] } p).trans (congrArg _ h)
  case tickRefused => exact fun p r h => (tick_withPending { s with pending := [] } p).trans (congrArg _ h)
  case loopNext =>
    exact fun n p t h => (dispatchStep_withPending n { s with phase := .decoding n } p).trans (congrArg _ h)

end Sys2Proof.Machine

/-! ## Encoding family (spec/30_encoding.md): the decoder and the encoder undo each other -/

namespace Sys2Proof

/-! ### Operand bytes (R71) -/

/-- Of two bytes, those that an operand column has: none, the low one, or both, low first. -/
def OperandKind.select (b1 b2 : Byte) : OperandKind → List Byte
  | .none => []
  | .u8 => [b1]
  | .u16 => [b1, b2]

@[simp] theorem OperandKind.length_select (k : OperandKind) (b1 b2 : Byte) :
    (k.select b1 b2).length = k.bytes := by
  cases k <;> rfl

/-! ### The instruction of an opcode -/

theorem Opcode.instr_isVm (o : Opcode) (b1 b2 : Byte) : (o.instr b1 b2).isVm = true := by
  cases o <;> rfl

/-- Every operand of the twenty opcodes is legal (R76). -/
theorem Opcode.instr_wfWith (m : Opcode → Byte) (o : Opcode) (b1 b2 : Byte) :
    (o.instr b1 b2).wfWith m = true := by
  cases o <;> rfl

theorem Opcode.instr_ne_note (o : Opcode) (b1 b2 c : Byte) : o.instr b1 b2 ≠ .note c := by
  cases o <;> exact nofun

/-- Bytes and instruction agree row by row of R75: the opcode's byte, then the operand bytes it has. -/
theorem encodeWith_instr (m : Opcode → Byte) (o : Opcode) (b1 b2 : Byte) :
    encodeWith m (o.instr b1 b2) = m o :: o.operand.select b1 b2 := by
  cases o <;> simp [Opcode.instr, encodeWith, Opcode.operand, OperandKind.select]

/-- A VM instruction is a NOTE or one of the twenty opcodes with its operand bytes. -/
theorem Instr.note_or_opcode_of_isVm {i : Instr} (h : i.isVm = true) :
    (∃ b, i = .note b) ∨ ∃ (o : Opcode) (b1 b2 : Byte), i = o.instr b1 b2 := by
  have u16 {f : Word → Instr} (o : Opcode) (ho : ∀ b1 b2, o.instr b1 b2 = f (word16 b1 b2)) (w : Word) :
      ∃ (o : Opcode) (b1 b2 : Byte), f w = o.instr b1 b2 :=
    ⟨o, loByte w, hiByte w, by rw [ho, word16_bytes]⟩
  cases i with
  | note b => exact .inl ⟨b, rfl⟩
  | nop => exact .inr ⟨.nop, 0, 0, rfl⟩
  | halt => exact .inr ⟨.halt, 0, 0, rfl⟩
  | jump a => exact .inr (u16 .jump (fun _ _ => rfl) a)
  | ifJump a => exact .inr (u16 .ifJump (fun _ _ => rfl) a)
  | ifNotJump a => exact .inr (u16 .ifNotJump (fun _ _ => rfl) a)
  | syscall c => exact .inr (u16 .syscall (fun _ _ => rfl) c)
  | set v => exact .inr ⟨.set, v, 0, rfl⟩
  | add v => exact .inr ⟨.add, v, 0, rfl⟩
  | sub v => exact .inr ⟨.sub, v, 0, rfl⟩
  | equal v => exact .inr ⟨.equal, v, 0, rfl⟩
  | lt v => exact .inr ⟨.lt, v, 0, rfl⟩
  | gt v => exact .inr ⟨.gt, v, 0, rfl⟩
  | ltEqual v => exact .inr ⟨.ltEqual, v, 0, rfl⟩
  | gtEqual v => exact .inr ⟨.gtEqual, v, 0, rfl⟩
  | ticks v => exact .inr ⟨.ticks, v, 0, rfl⟩
  | ticks16 v => exact .inr (u16 .ticks16 (fun _ _ => rfl) v)
  | wait v => exact .inr ⟨.wait, v, 0, rfl⟩
  | wait16 v => exact .inr (u16 .wait16 (fun _ _ => rfl) v)
  | instrument v => exact .inr ⟨.instrument, v, 0, rfl⟩
  | play v => exact .inr ⟨.play, v, 0, rfl⟩
  | split b w => cases h
  | join f w => cases h
  | getAt g x y => cases h
  | setAt g x y v => cases h

/-! ### What the decoder reads, and all it can have read -/

section Decoder

variable {m : Opcode → Byte}

/-- A byte that is no opcode is a whole instruction. -/
theorem decodeWith_note {b : Byte} (h : opcodeOf m b = none) (rest : List Byte) :
    decodeWith m (b :: rest) = .ok (.note b, rest) := by
  simp only [decodeWith, h]

/-- An opcode and the operand bytes it has are an instruction, whatever follows. -/
theorem decodeWith_opcode {b : Byte} {o : Opcode} (h : opcodeOf m b = some o) (b1 b2 : Byte) (rest : List Byte) :
    decodeWith m (b :: (o.operand.select b1 b2 ++ rest)) = .ok (o.instr b1 b2, rest) := by
  simp only [decodeWith, h]
  cases o <;> rfl

/-- A byte string that decodes begins with a NOTE byte, or with an opcode and the operand bytes it has. -/
theorem decodeWith_ok {bytes rest : List Byte} {i : Instr} (h : decodeWith m bytes = .ok (i, rest)) :
    (∃ b, opcodeOf m b = none ∧ bytes = b :: rest ∧ i = .note b) ∨
    ∃ b o b1 b2, opcodeOf m b = some o ∧ bytes = b :: (o.operand.select b1 b2 ++ rest) ∧ i = o.instr b1 b2 := by
  unfold decodeWith at h
  split at h
  case h_1 => cases h
  case h_2 b more =>
    split at h
    case h_1 hn => cases h; exact .inl ⟨b, hn, rfl, rfl⟩
    case h_2 o ho =>
      refine .inr ?_
      split at h
      case h_1 hk => cases h; exact ⟨b, o, 0, 0, ho, by rw [hk]; rfl, rfl⟩
      case h_2 hk =>
        split at h
        · cases h; exact ⟨b, o, _, 0, ho, by rw [hk]; rfl, rfl⟩
        · cases h
      case h_3 hk =>
        split at h
        · cases h; exact ⟨b, o, _, _, ho, by rw [hk]; rfl, rfl⟩
        · cases h

/-- Two bytes behind byte 0 are enough: no byte value is rejected (R76). -/
theorem exists_decodeWith_eq_ok (m : Opcode → Byte) (b b1 b2 : Byte) (rest : List Byte) :
    ∃ i left, decodeWith m (b :: b1 :: b2 :: rest) = .ok (i, left) := by
  cases ho : opcodeOf m b with
  | none => exact ⟨_, _, decodeWith_note ho _⟩
  | some o =>
    have read := decodeWith_opcode ho b1 b2
    cases hk : o.operand with
    | none => rw [hk] at read; exact ⟨_, _, read (b1 :: b2 :: rest)⟩
    | u8 => rw [hk] at read; exact ⟨_, _, read (b2 :: rest)⟩
    | u16 => rw [hk] at read; exact ⟨_, _, read rest⟩

/-- The decoder consumes the length that byte 0 tells (R73). -/
theorem length_of_decodeWith {b : Byte} {operands rest : List Byte} {i : Instr}
    (h : decodeWith m (b :: operands) = .ok (i, rest)) :
    operands.length + 1 = rest.length + lengthOf m b := by
  rcases decodeWith_ok h with ⟨b', ho, hb, -⟩ | ⟨b', o, b1, b2, ho, hb, -⟩
  · obtain ⟨rfl, rfl⟩ := List.cons.inj hb
    simp only [lengthOf, ho]
  · obtain ⟨rfl, rfl⟩ := List.cons.inj hb
    simp only [lengthOf, ho, List.length_append, OperandKind.length_select]
    omega

end Decoder

/-! ### The round trips (R71, R74) -/

/-- Settles O1: a NOTE byte is no opcode, and an injective map gives an opcode's byte back as that opcode. -/
theorem decodeOfEncode : Obligations.DecodeOfEncode := by
  intro m hm i hv hwf rest
  rcases Instr.note_or_opcode_of_isVm hv with ⟨b, rfl⟩ | ⟨o, b1, b2, rfl⟩
  · exact decodeWith_note (opcodeOf_none.mpr hwf) rest
  · rw [encodeWith_instr]
    exact decodeWith_opcode (opcodeOf_self hm o) b1 b2 rest

/-- Settles O2: by what the decoder can have read. -/
theorem encodeOfDecode : Obligations.EncodeOfDecode := by
  intro m bytes rest i h
  rcases decodeWith_ok h with ⟨b, ho, rfl, rfl⟩ | ⟨b, o, b1, b2, ho, rfl, rfl⟩
  · exact ⟨rfl, opcodeOf_none.mp ho, rfl⟩
  · refine ⟨o.instr_isVm b1 b2, o.instr_wfWith m b1 b2, ?_⟩
    rw [encodeWith_instr, opcodeOf_some ho, List.cons_append]

/-- Decoding undoes encoding under the opcode map of R75. -/
theorem decode_encode {i : Instr} (hv : i.isVm = true) (hwf : i.wf = true) (rest : List Byte) :
    decode (encode i ++ rest) = .ok (i, rest) :=
  decodeOfEncode opc opc_injective i hv hwf rest

/-! ### The bytes of R75 -/

theorem le_opc_toNat (o : Opcode) : 0xEC ≤ (opc o).toNat := by
  cases o <;> decide

/-- The NOTE bytes of R75 are those below `0xEC`: the twenty opcodes fill the bytes from there on. -/
theorem opcodeOf_opc_eq_none {b : Byte} : opcodeOf opc b = none ↔ b.toNat < 0xEC := by
  rw [opcodeOf_none]
  simp only [isNoteByte, Opcode.all, opc, List.all_cons, List.all_nil, Bool.and_true, Bool.and_eq_true, bne_iff_ne]
  bv_omega

/-- Which bytes begin an instruction of one, of two and of three bytes (R73, R75). -/
theorem lengthOf_opc_iff (b : Byte) :
    (lengthOf opc b = 1 ↔ b.toNat < 0xEC ∨ b = 0xEC ∨ b = 0xED) ∧
    (lengthOf opc b = 2 ↔ (0xF2 ≤ b.toNat ∧ b.toNat ≤ 0xFA) ∨ b = 0xFC ∨ b = 0xFE ∨ b = 0xFF) ∧
    (lengthOf opc b = 3 ↔ (0xEE ≤ b.toNat ∧ b.toNat ≤ 0xF1) ∨ b = 0xFB ∨ b = 0xFD) := by
  cases ho : opcodeOf opc b with
  | none =>
    have hb := opcodeOf_opc_eq_none.mp ho
    simp only [lengthOf, ho, true_iff]
    bv_omega
  | some o =>
    obtain rfl := opcodeOf_some ho
    cases o <;> decide

/-- Settles O3: two bytes behind byte 0 are enough, and the NOTE bytes are those below `0xEC`. -/
theorem everyByteDecodes : Obligations.EveryByteDecodes := by
  intro b b1 b2 rest
  obtain ⟨i, left, h⟩ := exists_decodeWith_eq_ok opc b b1 b2 rest
  refine ⟨i, left, h, (encodeOfDecode _ _ _ _ h).1, ?_⟩
  rcases decodeWith_ok h with ⟨b', ho, hb, rfl⟩ | ⟨b', o, c1, c2, ho, hb, rfl⟩
  · obtain ⟨rfl, -⟩ := List.cons.inj hb
    have hlt := opcodeOf_opc_eq_none.mp ho
    exact ⟨fun _ => rfl, fun hge => absurd hlt (Nat.not_lt.mpr hge)⟩
  · obtain ⟨rfl, -⟩ := List.cons.inj hb
    have hge : 0xEC ≤ b.toNat := opcodeOf_some ho ▸ le_opc_toNat o
    exact ⟨fun hlt => absurd hge (Nat.not_le.mpr hlt), fun _ c => o.instr_ne_note c1 c2 c⟩

/-- Settles O4: the bytes consumed are as many as byte 0 tells. -/
theorem lengthFromByteZero : Obligations.LengthFromByteZero := by
  intro b operands i rest h
  obtain ⟨one, two, three⟩ := lengthOf_opc_iff b
  rw [← one, ← two, ← three, length_of_decodeWith h]
  omega

/-- Settles O5: the six words are the encodings of the six instructions. -/
theorem wordsFromTheTable : Obligations.WordsFromTheTable :=
  ⟨decode_encode (i := .jump 0x1234) rfl rfl [], decode_encode (i := .add 3) rfl rfl [0xED],
    decode_encode (i := .ticks16 256) rfl rfl [], decode_encode (i := .play 60) rfl rfl [],
    decode_encode (i := .note 235) rfl rfl [], decode_encode (i := .nop) rfl rfl []⟩

end Sys2Proof

/-! ## Codec family (spec/40_codec_pack_unpack.md): a byte is the sum of its fields by their weights -/

namespace Sys2Proof.Machine

/-! ### Shapes (R95) -/

theorem validWidth_iff {w : Nat} : validWidth w = true ↔ w = 1 ∨ w = 2 ∨ w = 4 := by
  simp [validWidth, or_assoc]

/-- The fields of a byte fill it. -/
theorem mul_fieldsPerByte {w : Nat} (h : validWidth w = true) : w * fieldsPerByte w = 8 := by
  rcases validWidth_iff.mp h with rfl | rfl | rfl <;> rfl

theorem joinShapeOk_iff {f : List Int} {w : Nat} :
    joinShapeOk f w = true ↔ validWidth w = true ∧ f.length = fieldsPerByte w := by
  simp [joinShapeOk]

theorem mul_length_of_joinShapeOk {f : List Int} {w : Nat} (h : joinShapeOk f w = true) : w * f.length = 8 := by
  obtain ⟨hw, hl⟩ := joinShapeOk_iff.mp h
  rw [hl, mul_fieldsPerByte hw]

/-! ### The two calls -/

theorem exec_split (b : Byte) {w : Nat} (h : validWidth w = true) (s : State) :
    exec (.split b w) s = .next { s with output := .fields (splitByte b w) } := if_pos h

theorem exec_split_refused (b : Byte) {w : Nat} (h : ¬validWidth w = true) (s : State) :
    exec (.split b w) s = .refused .codecBadShape := if_neg h

theorem exec_join {f : List Int} {w : Nat} (h : joinShapeOk f w = true) (s : State) :
    exec (.join f w) s = .next { s with output := .byte (joinFields f w) } := if_pos h

theorem exec_join_refused {f : List Int} {w : Nat} (h : ¬joinShapeOk f w = true) (s : State) :
    exec (.join f w) s = .refused .codecBadShape := if_neg h

/-! ### Fields and weights (R91) -/

/-- A field further left weighs whole multiples of `2^W` times as much. -/
theorem fieldWeight_eq_mul {w i k : Nat} (h : w * (i + k + 2) ≤ 8) :
    fieldWeight w i = 2 ^ (w * k) * 2 ^ w * fieldWeight w (i + k + 1) := by
  simp only [fieldWeight, ← pow_add]
  congr 1
  grind

/-- What is left of the byte from field `i` on is field `i` and the rest. -/
theorem two_pow_eq_mul_fieldWeight {w i : Nat} (h : w * (i + 1) ≤ 8) :
    2 ^ (8 - w * i) = fieldWeight w i * 2 ^ w := by
  rw [fieldWeight, ← pow_add]
  congr 1
  grind

theorem fieldWeight_pos (w i : Nat) : 0 < fieldWeight w i := Nat.two_pow_pos _

theorem fieldOf_lt (b : Byte) (w i : Nat) : fieldOf b w i < 2 ^ w := Nat.mod_lt _ (Nat.two_pow_pos w)

theorem reduceField_eq (x : Int) (w : Nat) : reduceField x w = (x % 2 ^ w).toNat := by
  simp [reduceField]

theorem reduceField_lt (x : Int) (w : Nat) : reduceField x w < 2 ^ w := by
  have hw : (0 : Int) < (2 ^ w : Nat) := mod_cast Nat.two_pow_pos w
  have h := Int.emod_lt_of_pos x hw
  have := Int.emod_nonneg x hw.ne'
  unfold reduceField
  omega

/-- A number that is a field already is not changed by the reduction. -/
theorem reduceField_ofNat {n w : Nat} (h : n < 2 ^ w) : reduceField (Int.ofNat n) w = n := by
  rw [reduceField, Int.ofNat_eq_natCast, ← Int.natCast_emod, Int.toNat_natCast, Nat.mod_eq_of_lt h]

/-! ### The sum of R93 -/

theorem joinFrom_eq_sum (w i : Nat) (f : List Int) :
    joinFrom w i f = ∑ k ∈ Finset.range f.length, reduceField (f.getD k 0) w * fieldWeight w (i + k) := by
  induction f generalizing i with
  | nil => rfl
  | cons x more ih =>
    rw [joinFrom, ih, List.length_cons, Finset.sum_range_succ', Nat.add_comm]
    simp [Nat.add_assoc, Nat.add_comm 1]

/-- The fields from number `i` on stay below the weight of field `i - 1`. -/
theorem joinFrom_lt {w i : Nat} {f : List Int} (h : w * (i + f.length) ≤ 8) :
    joinFrom w i f < 2 ^ (8 - w * i) := by
  induction f generalizing i with
  | nil => exact Nat.two_pow_pos _
  | cons x more ih =>
    rw [List.length_cons] at h
    have hrest : joinFrom w (i + 1) more < fieldWeight w i := ih (by rwa [Nat.add_right_comm])
    have hi : w * (i + 1) ≤ 8 := le_trans (Nat.mul_le_mul_left w (by omega)) h
    calc reduceField x w * fieldWeight w i + joinFrom w (i + 1) more
        < (reduceField x w + 1) * fieldWeight w i := by rw [Nat.succ_mul]; omega
      _ ≤ 2 ^ w * fieldWeight w i := Nat.mul_le_mul_right _ (reduceField_lt x w)
      _ = 2 ^ (8 - w * i) := by rw [two_pow_eq_mul_fieldWeight hi, Nat.mul_comm]

/-- The sum fits in a byte, so nothing of it is lost. -/
theorem joinFields_toNat {f : List Int} {w : Nat} (h : joinShapeOk f w = true) :
    (joinFields f w).toNat = joinFrom w 0 f := by
  have hlt : joinFrom w 0 f < 2 ^ 8 :=
    joinFrom_lt (i := 0) (by rw [Nat.zero_add, mul_length_of_joinShapeOk h])
  rw [joinFields, BitVec.toNat_ofNat, Nat.mod_eq_of_lt hlt]

/-- Reading field `k` of the sum gives element `k`: the elements before it are multiples of `2^W` there, those
after it are less than its weight. -/
theorem joinFrom_field {w i k : Nat} {f : List Int} (h : w * (i + f.length) ≤ 8) (hk : k < f.length) :
    joinFrom w i f / fieldWeight w (i + k) % 2 ^ w = reduceField f[k] w := by
  induction f generalizing i k with
  | nil => exact absurd hk (Nat.not_lt_zero k)
  | cons x more ih =>
    rw [List.length_cons] at h hk
    have hmore : w * (i + 1 + more.length) ≤ 8 := by rwa [Nat.add_right_comm]
    cases k with
    | zero =>
      have hrest : joinFrom w (i + 1) more < fieldWeight w i := joinFrom_lt hmore
      rw [joinFrom, Nat.add_zero i, Nat.mul_comm, Nat.mul_add_div (fieldWeight_pos w i), Nat.div_eq_of_lt hrest]
      exact Nat.mod_eq_of_lt (reduceField_lt x w)
    | succ k =>
      have hik : w * (i + k + 2) ≤ 8 := le_trans (Nat.mul_le_mul_left w (by omega)) h
      have hsum : joinFrom w i (x :: more) =
          fieldWeight w (i + k + 1) * (2 ^ w * (2 ^ (w * k) * reduceField x w)) + joinFrom w (i + 1) more := by
        rw [joinFrom, fieldWeight_eq_mul hik]
        ring
      rw [hsum, ← Nat.add_assoc, Nat.mul_add_div (fieldWeight_pos w _), Nat.mul_add_mod, Nat.add_right_comm]
      exact ih hmore (Nat.lt_of_succ_lt_succ hk)

/-- Summing the fields of a byte from number `i` on gives back the part of the byte from field `i` on. -/
theorem joinFrom_fieldOf (b : Byte) {w i n : Nat} (h : w * (i + n) = 8) :
    joinFrom w i (((List.range' i n).map (fieldOf b w)).map Int.ofNat) = b.toNat % 2 ^ (8 - w * i) := by
  induction n generalizing i with
  | zero =>
    rw [Nat.add_zero] at h
    rw [h, Nat.sub_self, pow_zero, Nat.mod_one]
    rfl
  | succ n ih =>
    have hi : w * (i + 1) ≤ 8 := h ▸ Nat.mul_le_mul_left w (by omega)
    have hrest := ih (i := i + 1) (by rwa [Nat.add_right_comm])
    rw [List.range'_succ, List.map_cons, List.map_cons, joinFrom, hrest, reduceField_ofNat (fieldOf_lt b w i),
      two_pow_eq_mul_fieldWeight hi, Nat.mod_mul, Nat.mul_comm, Nat.add_comm]
    rfl

/-! ### `split` and `join` undo each other (R94) -/

@[simp] theorem length_splitByte (b : Byte) (w : Nat) : (splitByte b w).length = fieldsPerByte w := by
  simp [splitByte]

theorem splitByte_getElem? (b : Byte) {w i : Nat} (h : i < fieldsPerByte w) :
    (splitByte b w)[i]? = some (fieldOf b w i) := by
  simp [splitByte, h]

/-- What `split` returns has the shape `join` takes. -/
theorem joinShapeOk_splitByte (b : Byte) {w : Nat} (h : validWidth w = true) :
    joinShapeOk ((splitByte b w).map Int.ofNat) w = true :=
  joinShapeOk_iff.mpr ⟨h, by rw [List.length_map, length_splitByte]⟩

theorem joinFields_splitByte (b : Byte) {w : Nat} (h : validWidth w = true) :
    joinFields ((splitByte b w).map Int.ofNat) w = b := by
  have hfull : w * (0 + fieldsPerByte w) = 8 := by rw [Nat.zero_add, mul_fieldsPerByte h]
  apply BitVec.eq_of_toNat_eq
  rw [joinFields_toNat (joinShapeOk_splitByte b h), splitByte, List.range_eq_range', joinFrom_fieldOf b hfull]
  exact Nat.mod_eq_of_lt b.isLt

theorem splitByte_joinFields {f : List Int} {w : Nat} (h : joinShapeOk f w = true) :
    splitByte (joinFields f w) w = f.map (reduceField · w) := by
  obtain ⟨-, hl⟩ := joinShapeOk_iff.mp h
  have hfull : w * (0 + f.length) ≤ 8 := by rw [Nat.zero_add, mul_length_of_joinShapeOk h]
  apply List.ext_getElem
  · simp [hl]
  · intro k _ hk
    rw [List.length_map] at hk
    have hfield := joinFrom_field hfull hk
    rw [Nat.zero_add] at hfield
    simpa [splitByte, fieldOf, joinFields_toNat h] using hfield

/-! ### The statements of the family -/

/-- Settles O31: the fields of a byte sum up to it. -/
theorem joinOfSplit : Obligations.JoinOfSplit := by
  intro b w s h
  have hw := validWidth_iff.mpr h
  refine ⟨splitByte b w, exec_split b hw s, ?_⟩
  rw [exec_join (joinShapeOk_splitByte b hw), joinFields_splitByte b hw]

/-- Settles O32: the fields of the sum are the reduced elements. -/
theorem splitOfJoin : Obligations.SplitOfJoin := by
  intro f w s h hl
  have hw := validWidth_iff.mpr h
  have hs := joinShapeOk_iff.mpr ⟨hw, hl⟩
  refine ⟨joinFields f w, exec_join hs s, ?_⟩
  simp only [exec_split _ hw, splitByte_joinFields hs, reduceField_eq]

/-- Settles O29: the list `splitByte` builds, field by field. -/
theorem splitReturnsFields : Obligations.SplitReturnsFields := by
  intro b w s h
  refine ⟨splitByte b w, exec_split b (validWidth_iff.mpr h) s, length_splitByte b w, fun i hi => ?_⟩
  have hfield := splitByte_getElem? b hi
  refine ⟨hfield, ?_⟩
  rw [List.getD_eq_getElem?_getD, hfield]
  exact fieldOf_lt b w i

/-- Settles O30: the sum fits in a byte, whatever the elements are. -/
theorem joinReturnsByte : Obligations.JoinReturnsByte := by
  intro f w s h hl
  have hs := joinShapeOk_iff.mpr ⟨validWidth_iff.mpr h, hl⟩
  refine ⟨joinFields f w, exec_join hs s, ?_⟩
  rw [joinFields_toNat hs, joinFrom_eq_sum, hl]
  simp only [reduceField_eq, fieldWeight, Nat.zero_add]

/-- Settles O33: the shape test is the first thing both calls do. -/
theorem badCodecShapeIsRefused : Obligations.BadCodecShapeIsRefused := by
  refine fun w s => ⟨fun h => ?_, fun f _ hl => ?_⟩
  · have hw : ¬validWidth w = true := fun hv => h (validWidth_iff.mp hv)
    exact ⟨fun b => exec_split_refused b hw s,
      fun f => exec_join_refused (fun hs => hw (joinShapeOk_iff.mp hs).1) s⟩
  · exact exec_join_refused (fun hs => hl (joinShapeOk_iff.mp hs).2) s

end Sys2Proof.Machine

/-! ## Grid family (spec/41_codec_grid.md): an in-bounds coordinate is one field of one byte of the Grid -/

namespace Sys2Proof.Machine

open Sys2Proof Sys2Proof.Safety

/-! ### Shape, bounds and allocation (R101, R102) -/

theorem fieldsPerByte_pos {w : Nat} (h : validWidth w = true) : 0 < fieldsPerByte w := by
  have := mul_fieldsPerByte h
  exact Nat.pos_of_mul_pos_left (by omega : 0 < w * fieldsPerByte w)

theorem shapeOk_iff {g : Grid} :
    g.shapeOk = true ↔
      (g.fieldWidth = 1 ∨ g.fieldWidth = 2 ∨ g.fieldWidth = 4) ∧ g.width % (8 / g.fieldWidth) = 0 := by
  simp [Grid.shapeOk, validWidth_iff, fieldsPerByte]

theorem Grid.validWidth_of_shapeOk {g : Grid} (h : g.shapeOk = true) : validWidth g.fieldWidth = true :=
  validWidth_iff.mpr (shapeOk_iff.mp h).1

/-- The rows are whole bytes. -/
theorem fieldsPerByte_mul_gridStride {g : Grid} (h : g.shapeOk = true) :
    fieldsPerByte g.fieldWidth * gridStride g = g.width :=
  Nat.mul_div_cancel' (Nat.dvd_of_mod_eq_zero (shapeOk_iff.mp h).2)

theorem gridOk_iff {m : Memory} {g : Grid} : gridOk m g = true ↔ WellFormedGrid m g := by
  rw [gridOk, Bool.and_eq_true, shapeOk_iff, Memory.covers_iff, and_assoc]
  rfl

theorem shapeOk_of_wellFormedGrid {m : Memory} {g : Grid} (h : WellFormedGrid m g) : g.shapeOk = true := by
  obtain ⟨hw, hd, -⟩ := h
  exact shapeOk_iff.mpr ⟨hw, hd⟩

theorem inBounds_iff {g : Grid} {x y : Int} : inBounds g x y = true ↔ InGrid g x y := decide_eq_true_iff

/-- A Grid without bytes needs none allocated. -/
theorem wellFormedGrid_of_empty {g : Grid} (m : Memory) (hs : g.shapeOk = true) (he : g.width = 0 ∨ g.height = 0) :
    WellFormedGrid m g := by
  obtain ⟨hw, hd⟩ := shapeOk_iff.mp hs
  refine ⟨hw, hd, fun a hlo hhi => absurd hhi ?_⟩
  rcases he with he | he <;> simp [he, hlo]

theorem not_inGrid_of_empty {g : Grid} (he : g.width = 0 ∨ g.height = 0) (x y : Int) : ¬InGrid g x y := by
  rintro ⟨hx, hxw, hy, hyh⟩
  omega

/-- A store never makes a Grid ill-formed. -/
theorem wellFormedGrid_write {m : Memory} {g : Grid} (h : WellFormedGrid m g) (a : Nat) (b : Byte) :
    WellFormedGrid (Memory.write m a b) g := by
  obtain ⟨hw, hd, hall⟩ := h
  exact ⟨hw, hd, fun c hlo hhi => Memory.isSome_read_write (hall c hlo hhi) a b⟩

/-! ### The address decoder (R103, R104) -/

section Decoder

variable {g : Grid} {x y x' y' : Int}

/-- The byte of an in-bounds coordinate lies within its row. -/
theorem column_lt_gridStride (hs : g.shapeOk = true) (hi : InGrid g x y) :
    x.toNat / fieldsPerByte g.fieldWidth < gridStride g := by
  obtain ⟨hx, hxw, -, -⟩ := hi
  rw [Nat.div_lt_iff_lt_mul (fieldsPerByte_pos (Grid.validWidth_of_shapeOk hs)), Nat.mul_comm,
    fieldsPerByte_mul_gridStride hs]
  omega

theorem fieldIndex_lt (hs : g.shapeOk = true) (x : Int) : fieldIndex g x < fieldsPerByte g.fieldWidth :=
  Nat.mod_lt _ (fieldsPerByte_pos (Grid.validWidth_of_shapeOk hs))

theorem le_byteOffset (g : Grid) (x y : Int) : g.baseOffset ≤ byteOffset g x y := by
  rw [byteOffset, Nat.add_assoc]
  exact Nat.le_add_right _ _

theorem byteOffset_lt (hs : g.shapeOk = true) (hi : InGrid g x y) :
    byteOffset g x y < g.baseOffset + gridBytes g := by
  have hcol := column_lt_gridStride hs hi
  obtain ⟨-, -, hy, hyh⟩ := hi
  rw [byteOffset, Nat.add_assoc]
  apply Nat.add_lt_add_left
  calc y.toNat * gridStride g + x.toNat / fieldsPerByte g.fieldWidth
      < (y.toNat + 1) * gridStride g := by rw [Nat.succ_mul]; omega
    _ ≤ gridBytes g := Nat.mul_le_mul_right _ (by omega)

/-- The row is the quotient of the byte's number by the stride. -/
theorem toNat_y_eq (hs : g.shapeOk = true) (hi : InGrid g x y) :
    y.toNat = (byteOffset g x y - g.baseOffset) / gridStride g := by
  have hcol := column_lt_gridStride hs hi
  rw [byteOffset, Nat.add_assoc, Nat.add_sub_cancel_left, Nat.mul_comm,
    Nat.mul_add_div (Nat.zero_lt_of_lt hcol), Nat.div_eq_of_lt hcol, Nat.add_zero]

/-- The byte's column is the remainder, and the field index is the place within the byte. -/
theorem toNat_x_eq (hs : g.shapeOk = true) (hi : InGrid g x y) :
    x.toNat = fieldsPerByte g.fieldWidth * ((byteOffset g x y - g.baseOffset) % gridStride g) + fieldIndex g x := by
  have hcol := column_lt_gridStride hs hi
  rw [byteOffset, Nat.add_assoc, Nat.add_sub_cancel_left, Nat.mul_comm y.toNat, Nat.mul_add_mod,
    Nat.mod_eq_of_lt hcol, fieldIndex, Nat.div_add_mod]

/-- Two in-bounds coordinates of the same byte and field are one. -/
theorem coordinate_unique (hs : g.shapeOk = true) (hi : InGrid g x y) (hi' : InGrid g x' y')
    (ha : byteOffset g x' y' = byteOffset g x y) (hf : fieldIndex g x' = fieldIndex g x) : x' = x ∧ y' = y := by
  have hxe : x'.toNat = x.toNat := by rw [toNat_x_eq hs hi, toNat_x_eq hs hi', ha, hf]
  have hye : y'.toNat = y.toNat := by rw [toNat_y_eq hs hi, toNat_y_eq hs hi', ha]
  obtain ⟨hx, -, hy, -⟩ := hi
  obtain ⟨hx', -, hy', -⟩ := hi'
  omega

/-- The column `q` and the field `i` of row `r` have a coordinate, and the decoder finds them from it. -/
theorem exists_coordinate (hs : g.shapeOk = true) {r q i : Nat} (hr : r < g.height) (hq : q < gridStride g)
    (hf : i < fieldsPerByte g.fieldWidth) :
    ∃ x y, InGrid g x y ∧ byteOffset g x y = g.baseOffset + r * gridStride g + q ∧ fieldIndex g x = i := by
  have hlt : fieldsPerByte g.fieldWidth * q + i < g.width :=
    calc fieldsPerByte g.fieldWidth * q + i
        < fieldsPerByte g.fieldWidth * (q + 1) := by rw [Nat.mul_succ]; omega
      _ ≤ fieldsPerByte g.fieldWidth * gridStride g := Nat.mul_le_mul_left _ hq
      _ = g.width := fieldsPerByte_mul_gridStride hs
  refine ⟨(fieldsPerByte g.fieldWidth * q + i : Nat), r, ⟨by omega, by omega, by omega, by omega⟩, ?_, ?_⟩
  · rw [byteOffset, Int.toNat_natCast, Int.toNat_natCast, Nat.mul_add_div (Nat.zero_lt_of_lt hf),
      Nat.div_eq_of_lt hf, Nat.add_zero]
  · rw [fieldIndex, Int.toNat_natCast, Nat.mul_add_mod, Nat.mod_eq_of_lt hf]

end Decoder

/-- Settles O35: row and column of a byte are quotient and remainder by the stride. -/
theorem gridDecoderIsBijective : Obligations.GridDecoderIsBijective := by
  intro g hw hd
  have hs := shapeOk_iff.mpr ⟨hw, hd⟩
  refine ⟨fun x y hi => ⟨le_byteOffset g x y, byteOffset_lt hs hi, fieldIndex_lt hs x⟩, fun a i hlo hhi hf => ?_⟩
  have hbytes : a - g.baseOffset < gridStride g * g.height := by
    rw [Nat.mul_comm]
    exact Nat.sub_lt_left_of_lt_add hlo hhi
  have hstride : 0 < gridStride g := Nat.pos_of_mul_pos_right (Nat.zero_lt_of_lt hbytes)
  obtain ⟨x, y, hi, hb, rfl⟩ := exists_coordinate hs (Nat.div_lt_of_lt_mul hbytes)
    (Nat.mod_lt (a - g.baseOffset) hstride) hf
  have ha : byteOffset g x y = a := by
    rw [hb, Nat.add_assoc, Nat.div_add_mod', Nat.add_sub_cancel' hlo]
  exact ⟨x, y, hi, ha, rfl, fun x' y' hi' ha' hf' => coordinate_unique hs hi hi' (ha'.trans ha.symm) hf'⟩

/-- Settles O36: an in-bounds coordinate is a pair of natural numbers. -/
theorem gridDecoderFormula : Obligations.GridDecoderFormula := by
  rintro g x y ⟨hx, -, hy, -⟩
  lift x to ℕ using hx
  lift y to ℕ using hy
  constructor
  · simp only [byteOffset, gridStride, fieldsPerByte, Int.toNat_natCast, Nat.cast_add, Nat.cast_mul, Int.natCast_ediv]
  · simp only [fieldIndex, fieldsPerByte, Int.toNat_natCast, Int.natCast_emod]

/-! ### One field of a byte is replaced (R106) -/

theorem splitByte_replaceField (b : Byte) {w : Nat} (hw : validWidth w = true) (i : Nat) (v : Int) :
    splitByte (replaceField b w i v) w = (splitByte b w).set i (reduceField v w) := by
  have hs : joinShapeOk (((splitByte b w).set i (reduceField v w)).map Int.ofNat) w = true :=
    joinShapeOk_iff.mpr ⟨hw, by simp⟩
  rw [replaceField, splitByte_joinFields hs, List.map_map]
  refine (List.map_congr_left (g := id) fun n hn => reduceField_ofNat ?_).trans (List.map_id _)
  rcases List.mem_or_eq_of_mem_set hn with hn | rfl
  · obtain ⟨k, -, rfl⟩ := List.mem_map.mp hn
    exact fieldOf_lt b w k
  · exact reduceField_lt v w

theorem fieldOf_replaceField (b : Byte) {w i j : Nat} (hw : validWidth w = true) (hj : j < fieldsPerByte w)
    (v : Int) :
    fieldOf (replaceField b w i v) w j = if j = i then reduceField v w else fieldOf b w j := by
  have hget : (splitByte (replaceField b w i v) w)[j]? = some (fieldOf (replaceField b w i v) w j) :=
    splitByte_getElem? _ hj
  rw [splitByte_replaceField b hw] at hget
  apply Option.some_injective
  rw [← hget]
  by_cases hji : j = i
  · subst hji
    simp [hj]
  · rw [if_neg hji, List.getElem?_set_ne (Ne.symm hji), splitByte_getElem? b hj]

/-! ### What the two calls do -/

section Calls

variable {s : State} {g : Grid} {x y : Int}

theorem exec_getAt_refused (h : ¬WellFormedGrid s.mem g) :
    exec (.getAt g x y) s = .refused .gridIllFormed := if_neg (mt gridOk_iff.mp h)

theorem exec_setAt_refused (h : ¬WellFormedGrid s.mem g) (v : Int) :
    exec (.setAt g x y v) s = .refused .gridIllFormed := if_neg (mt gridOk_iff.mp h)

theorem exec_getAt_outside (h : WellFormedGrid s.mem g) (hi : ¬InGrid g x y) :
    exec (.getAt g x y) s = .next { s with output := .value 0 } :=
  (if_pos (gridOk_iff.mpr h)).trans (if_neg (mt inBounds_iff.mp hi))

theorem exec_setAt_outside (h : WellFormedGrid s.mem g) (hi : ¬InGrid g x y) (v : Int) :
    exec (.setAt g x y v) s = .next { s with output := .flag false } :=
  (if_pos (gridOk_iff.mpr h)).trans (if_neg (mt inBounds_iff.mp hi))

/-- The byte of an in-bounds coordinate is allocated. -/
theorem exists_read_byteOffset (h : WellFormedGrid s.mem g) (hi : InGrid g x y) :
    ∃ b, Memory.read s.mem (byteOffset g x y) = some b := by
  have hlt := byteOffset_lt (shapeOk_of_wellFormedGrid h) hi
  obtain ⟨-, -, hall⟩ := h
  exact Option.isSome_iff_exists.mp (hall _ (le_byteOffset g x y) hlt)

theorem exec_getAt_inside (h : WellFormedGrid s.mem g) (hi : InGrid g x y) {b : Byte}
    (hb : Memory.read s.mem (byteOffset g x y) = some b) :
    exec (.getAt g x y) s = .next { s with output := .value (fieldOf b g.fieldWidth (fieldIndex g x)) } := by
  have hfield := splitByte_getElem? b (fieldIndex_lt (shapeOk_of_wellFormedGrid h) x)
  simp only [exec, execGetAt, gridOk_iff.mpr h, inBounds_iff.mpr hi, hb, if_true, List.getD_eq_getElem?_getD, hfield]
  rfl

theorem exec_setAt_inside (h : WellFormedGrid s.mem g) (hi : InGrid g x y) {b : Byte}
    (hb : Memory.read s.mem (byteOffset g x y) = some b) (v : Int) :
    exec (.setAt g x y v) s =
      .next { s with
        mem := Memory.write s.mem (byteOffset g x y) (replaceField b g.fieldWidth (fieldIndex g x) v)
        output := .flag true } := by
  simp only [exec, execSetAt, gridOk_iff.mpr h, inBounds_iff.mpr hi, hb, if_true]

/-- Once the field of `(x, y)` is replaced, the field of `(x', y')` is the new one for the same coordinate and the
old one for any other: that lies in another byte, or in another field of the same byte. -/
theorem exists_read_after_replaceField {x' y' : Int} {b b' : Byte} (h : WellFormedGrid s.mem g)
    (hi : InGrid g x y) (hb : Memory.read s.mem (byteOffset g x y) = some b)
    (hi' : InGrid g x' y') (hb' : Memory.read s.mem (byteOffset g x' y') = some b') (v : Int) :
    ∃ c, Memory.read (Memory.write s.mem (byteOffset g x y) (replaceField b g.fieldWidth (fieldIndex g x) v))
        (byteOffset g x' y') = some c ∧
      fieldOf c g.fieldWidth (fieldIndex g x') =
        if x' = x ∧ y' = y then reduceField v g.fieldWidth else fieldOf b' g.fieldWidth (fieldIndex g x') := by
  have hs := shapeOk_of_wellFormedGrid h
  by_cases ha : byteOffset g x' y' = byteOffset g x y
  · obtain rfl : b = b' := Option.some_injective _ (hb.symm.trans (ha ▸ hb'))
    have hiff : fieldIndex g x' = fieldIndex g x ↔ x' = x ∧ y' = y :=
      ⟨coordinate_unique hs hi hi' ha, fun ⟨hx, _⟩ => hx ▸ rfl⟩
    refine ⟨replaceField b g.fieldWidth (fieldIndex g x) v, by rw [ha, Memory.read_write_same], ?_⟩
    simp only [fieldOf_replaceField b (Grid.validWidth_of_shapeOk hs) (fieldIndex_lt hs x') v, hiff]
  · have hne : ¬(x' = x ∧ y' = y) := fun ⟨hx, hy⟩ => ha (by rw [hx, hy])
    exact ⟨b', (Memory.read_write_other _ _ _ _ ha).trans hb', (if_neg hne).symm⟩

end Calls

/-! ### The statements of the family -/

/-- Settles O34: the test for R101 comes before the one for the bounds. -/
theorem illFormedGridIsRefused : Obligations.IllFormedGridIsRefused := by
  refine fun s g x y v => ⟨fun h => ⟨exec_getAt_refused h, exec_setAt_refused h v⟩, fun hw hd he => ?_⟩
  have hwf := wellFormedGrid_of_empty s.mem (shapeOk_iff.mpr ⟨hw, hd⟩) he
  have hout := not_inGrid_of_empty he x y
  exact ⟨exec_getAt_outside hwf hout, exec_setAt_outside hwf hout v⟩

/-- Settles O37: the byte at `byteOffset` is allocated, and its field is what R92 says. -/
theorem getAtReadsField : Obligations.GetAtReadsField := by
  refine fun s g x y h => ⟨exec_getAt_outside h, fun hi => ?_⟩
  obtain ⟨b, hb⟩ := exists_read_byteOffset h hi
  exact ⟨b, _, hb, rfl, exec_getAt_inside h hi hb⟩

/-- Settles O38: the byte stored is the byte read with one field replaced. -/
theorem setAtReplacesField : Obligations.SetAtReplacesField := by
  refine fun s g x y v h => ⟨fun hi => exec_setAt_outside h hi v, fun hi => ?_⟩
  have hw := Grid.validWidth_of_shapeOk (shapeOk_of_wellFormedGrid h)
  obtain ⟨b, hb⟩ := exists_read_byteOffset h hi
  refine ⟨b, _, _, hb, exec_setAt_inside h hi hb v, rfl, fun a ha => Memory.read_write_other _ _ _ _ ha,
    Memory.read_write_same _ _ _, fun i hlt => ?_⟩
  rw [← reduceField_eq]
  exact fieldOf_replaceField b hw hlt v

/-- Settles O39: the store changes the field of the one coordinate. -/
theorem getAtAfterSetAt : Obligations.GetAtAfterSetAt := by
  refine fun s g x y v h =>
    ⟨fun hi => ?_, fun hi => ⟨exec_getAt_outside h hi, exec_setAt_outside h hi v⟩⟩
  obtain ⟨b, hb⟩ := exists_read_byteOffset h hi
  have ht := wellFormedGrid_write h (byteOffset g x y) (replaceField b g.fieldWidth (fieldIndex g x) v)
  refine ⟨_, exec_setAt_inside h hi hb v, ?_, fun x' y' hi' hne => ?_, fun a ha => Memory.read_write_other _ _ _ _ ha⟩
  · obtain ⟨c, hc, hf⟩ := exists_read_after_replaceField h hi hb hi hb v
    rw [exec_getAt_inside ht hi hc, hf, if_pos ⟨rfl, rfl⟩, reduceField_eq]
  · obtain ⟨b', hb'⟩ := exists_read_byteOffset h hi'
    obtain ⟨c, hc, hf⟩ := exists_read_after_replaceField h hi hb hi' hb' v
    refine ⟨_, exec_getAt_inside h hi' hb', ?_⟩
    rw [exec_getAt_inside ht hi' hc, hf, if_neg hne]

end Sys2Proof.Machine

/-! ## Update family (spec/42_vm_update.md): the gates, the decode loop, and the steps that carry it out -/

namespace Sys2Proof.Machine

open Sys2Proof Sys2Proof.Safety

/-! ### What a fetch finds (R119, R121) -/

theorem Memory.exists_readBytes {m : Memory} {a n : Nat} (h : ∀ k < n, (Memory.read m (a + k)).isSome = true) :
    ∃ bytes, bytes.length = n ∧ Memory.readBytes m a n = some bytes := by
  induction n generalizing a with
  | zero => exact ⟨[], rfl, rfl⟩
  | succ n ih =>
    obtain ⟨b, hb⟩ := Option.isSome_iff_exists.mp (h 0 n.succ_pos)
    obtain ⟨more, hlen, hmore⟩ := ih (a := a + 1) fun k hk => by
      rw [Nat.add_right_comm]
      exact h (k + 1) (by omega)
    rw [Nat.add_zero] at hb
    exact ⟨b :: more, by rw [List.length_cons, hlen], by simp only [Memory.readBytes, hb, hmore]⟩

/-- As many bytes as byte 0 tells are one whole instruction (R73, R76). -/
theorem exists_decode_of_length {b : Byte} {operands : List Byte} (h : operands.length = lengthOf opc b - 1) :
    ∃ i, decode (b :: operands) = .ok (i, []) := by
  cases ho : opcodeOf opc b with
  | none =>
    simp only [lengthOf, ho, Nat.sub_self, List.length_eq_zero_iff] at h
    exact ⟨.note b, h ▸ decodeWith_note ho []⟩
  | some o =>
    simp only [lengthOf, ho, Nat.add_sub_cancel_left] at h
    have hsel : ∃ b1 b2, operands = o.operand.select b1 b2 := by
      cases hk : o.operand with
      | none => rw [hk] at h; exact ⟨0, 0, List.length_eq_zero_iff.mp h⟩
      | u8 =>
        rw [hk] at h
        obtain ⟨b1, rfl⟩ := List.length_eq_one_iff.mp h
        exact ⟨b1, 0, rfl⟩
      | u16 =>
        rw [hk] at h
        obtain ⟨b1, b2, rfl⟩ := List.length_eq_two.mp h
        exact ⟨b1, b2, rfl⟩
    obtain ⟨b1, b2, rfl⟩ := hsel
    have hd := decodeWith_opcode ho b1 b2 []
    rw [List.append_nil] at hd
    exact ⟨o.instr b1 b2, hd⟩

section Fetch

variable {s : State} {op : Byte}

theorem fetch_of_straddle (hop : Memory.read s.mem (s.track.address 0) = some op)
    (hs : straddles s.track.cursor (lengthOf opc op) = true) : fetch s = .error .cursorStraddle := by
  simp only [fetch, hop, hs, if_true]

theorem fetch_of_readBytes {operands rest : List Byte} {i : Instr}
    (hop : Memory.read s.mem (s.track.address 0) = some op)
    (hs : straddles s.track.cursor (lengthOf opc op) = false)
    (hb : Memory.readBytes s.mem (s.track.address 1) (lengthOf opc op - 1) = some operands)
    (hd : decode (op :: operands) = .ok (i, rest)) : fetch s = .ok i := by
  simp [fetch, hop, hs, hb, hd]

/-- The instruction whose bytes stand at the cursor is fetched. -/
theorem fetch_of_bytesAtCursor {bytes : List Byte} {i : Instr} (hd : decode bytes = .ok (i, []))
    (hb : BytesAtCursor s bytes) : fetch s = .ok i := by
  obtain ⟨hread, hroom⟩ := hb
  cases bytes with
  | nil => cases hd
  | cons b operands =>
    have hlen : operands.length + 1 = lengthOf opc b := (length_of_decodeWith hd).trans (Nat.zero_add _)
    rw [List.length_cons, hlen] at hroom
    refine fetch_of_readBytes (hread 0 b rfl) (straddles_eq_false hroom) ?_ hd
    rw [← hlen, Nat.add_sub_cancel, Memory.readBytes_eq_some]
    intro k c hc
    have := hread (k + 1) c hc
    rwa [Nat.add_comm k 1, ← Nat.add_assoc] at this

/-- In a window that is allocated as a whole only a straddle stops a fetch (R56, R121). -/
theorem fetch_of_window_allocated
    (h : ∀ o, o ≤ 0xFFFF → (Memory.read s.mem (s.track.base + o)).isSome = true) :
    (∃ i, fetch s = .ok i) ∨ fetch s = .error .cursorStraddle := by
  have hc := s.track.cursor.isLt
  obtain ⟨op, hop⟩ := Option.isSome_iff_exists.mp (h s.track.cursor.toNat (by omega))
  cases hs : straddles s.track.cursor (lengthOf opc op) with
  | true => exact .inr (fetch_of_straddle hop hs)
  | false =>
    have hroom : s.track.cursor.toNat + lengthOf opc op - 1 ≤ 0xFFFF := by simpa [straddles] using hs
    obtain ⟨operands, hlen, hb⟩ := Memory.exists_readBytes (m := s.mem) (a := s.track.address 1)
      (n := lengthOf opc op - 1) fun k hk => by
        rw [Track.address, Nat.add_assoc, Nat.add_assoc]
        exact h _ (by omega)
    obtain ⟨i, hd⟩ := exists_decode_of_length hlen
    exact .inl ⟨i, fetch_of_readBytes hop hs hb hd⟩

theorem dispatch_of_fetch_ok {i : Instr} (h : fetch s = .ok i) : dispatch s = exec i s := by
  simp only [dispatch, h]

end Fetch

/-- Settles O8: the opcode byte tells a length that the window has no room for. -/
theorem straddleIsRefused : Obligations.StraddleIsRefused := by
  intro s op hop h
  obtain ⟨one, two, three⟩ := lengthOf_opc_iff op
  have hs : straddles s.track.cursor (lengthOf opc op) = true := by
    have hlen : 1 ≤ lengthOf opc op := by simp only [lengthOf]; split <;> omega
    refine decide_eq_true ?_
    rcases h with ⟨hc, hlong⟩ | ⟨hc, hlong⟩
    · have : lengthOf opc op ≠ 1 := fun h1 => by have := one.mp h1; bv_omega
      omega
    · rw [three.mpr hlong]
      omega
  exact dispatch_of_fetch_error (fetch_of_straddle hop hs)

/-! ### `update()` and a tick, by the gates -/

theorem update_returned {s t : State} (h : gate s = .returned t) : update s = .next t := by
  simp only [update, h]

/-- The gates leave a decode tick in the state of its first dispatch. -/
theorem gate_ready {s : State} (h : Ready s) : gate s = .decodes (atLoopEntry s) := by
  obtain ⟨-, hh, hc, hw⟩ := h
  exact gate_open hh hc hw

/-- The gates end the tick, with nothing new in progress, or leave it at the loop's entry. -/
theorem gate_returned_or_decodes (s : State) :
    (∃ t, gate s = .returned t ∧ t.phase = s.phase) ∨ gate s = .decodes (atLoopEntry s) := by
  rcases gate_cases s with ⟨-, hg⟩ | ⟨-, -, hg⟩ | ⟨-, -, -, hg⟩ | ⟨-, -, -, hg⟩
  · exact .inl ⟨_, hg, rfl⟩
  · exact .inl ⟨_, hg, rfl⟩
  · exact .inl ⟨_, hg, rfl⟩
  · exact .inr hg

/-- Settles O6: either way the step is a turn of the loop, and its dispatch executes what is fetched. -/
theorem stepRunsDecodedInstruction : Obligations.StepRunsDecodedInstruction := by
  intro s bytes i hd hb
  constructor
  · intro n hp hn
    rw [step_decoding hp, dispatchStep_lt hn, dispatch_of_fetch_ok (fetch_of_bytesAtCursor hd hb)]
  · intro hr
    have hb' : BytesAtCursor (atLoopEntry s) bytes := hb
    obtain ⟨hp, hq⟩ := hr.1
    rw [step_quiet hp hq, tick_decodes (gate_ready hr), dispatchStep_lt (by decide),
      dispatch_of_fetch_ok (fetch_of_bytesAtCursor hd hb')]

/-- With both request flags down before it, an instruction leaves up the flag of the event it asks for (R124). -/
theorem Track.events_after {t : Track} (hs : t.sentSyscall = false) (hp : t.sentPlay = false) (i : Instr) :
    (t.after i).events = requestOf i := by
  cases i with
  | syscall c => simp [Track.after, Track.events, requestOf, hp]
  | play v => simp [Track.after, Track.events, requestOf, hs]
  | note b => simp [Track.after, Track.events, requestOf, hs]
  | _ => simp [Track.after, Track.events, requestOf, Events.none, hs, hp]

/-- Settles O7: `afterDispatch` on the Track and the verdict that the instruction retires. -/
theorem dispatchFollowsVerdictTable : Obligations.DispatchFollowsVerdictTable := by
  intro s n i hp hn hs hpl hv hwf hb
  have hdec : decode (encode i) = .ok (i, []) := by simpa only [List.append_nil] using decode_encode hv hwf []
  obtain ⟨hloop, -⟩ := stepRunsDecodedInstruction s _ i hdec hb
  have hstep := hloop n hp hn
  rw [exec_vm_eq hv] at hstep
  by_cases hend : verdictOf s.track.accumulator i = .endCycle ∨ n + 1 = 255
  · rw [afterDispatch_end (hend.imp id fun h => h.ge)] at hstep
    refine ⟨_, _, exec_vm_eq hv s, rfl, hstep, rfl, rfl, ?_⟩
    rw [if_pos hend]
    exact ⟨rfl, congrArg Output.events (Track.events_after hs hpl i)⟩
  · obtain ⟨hverdict, hcount⟩ := not_or.mp hend
    have hcont : verdictOf s.track.accumulator i = .cont := by
      cases h : verdictOf s.track.accumulator i with
      | cont => rfl
      | endCycle => exact (hverdict h).elim
    rw [afterDispatch_cont hcont (by omega)] at hstep
    refine ⟨_, _, exec_vm_eq hv s, rfl, hstep, rfl, rfl, ?_⟩
    rw [if_neg hend]
    exact ⟨rfl, rfl⟩

/-! ### Ticks that decode nothing (R117, R123, R125, R127) -/

theorem Track.countDown_counter_toNat {t : Track} (h : 0 < t.counter.toNat) :
    t.countDown.counter.toNat + 1 = t.counter.toNat := by
  rw [Track.countDown_counter]
  bv_omega

/-- Settles O41: the gate's second branch, reached by `update()` and by the step alike. -/
theorem idleTickOnlyCounts : Obligations.IdleTickOnlyCounts := by
  intro s hh hc
  have hc' : s.track.counter ≠ 0 := by bv_omega
  refine ⟨_, update_returned (gate_idle hh hc'), fun hq => step_idle hq hh hc', rfl, ?_⟩
  exact Nat.eq_sub_of_add_eq (Track.countDown_counter_toNat hc)

/-- Settles O42: the gate's third branch, reached by `update()` and by the step alike. -/
theorem waitTickReloadsAndClears : Obligations.WaitTickReloadsAndClears := by
  intro s hh hc hw
  have hw' : s.track.wait ≠ 0 := by bv_omega
  refine ⟨_, update_returned (gate_wait hh hc hw'), fun hq => step_wait hq hh hc hw', rfl, ?_⟩
  rw [Track.waitDown_wait, Track.startCycle_wait]
  bv_omega

/-- One halted tick (R117). -/
theorem step_halted {s : State} (hq : Quiet s) (hh : s.track.sentHalt = true) :
    step s = .next (s.returns (.events { Events.none with halt := true })) := by
  rw [step_quiet hq.1 hq.2, tick_returned (gate_halted hh)]

/-- Settles O40: a halted tick leaves a quiet halted state, and a second one returns the same. -/
theorem terminalIsPermanent : Obligations.TerminalIsPermanent := by
  intro k s hq hh
  induction k generalizing s with
  | zero => rw [runs_one]; exact step_halted hq hh
  | succ k ih => rw [runs_succ (step_halted hq hh)]; exact ih _ hq hh

/-- After `j + 1` idle ticks nothing has changed but the counter and the record returned. -/
theorem runs_idle_exact (j : Nat) {s : State} (hq : Quiet s) (hh : s.track.sentHalt = false)
    (hj : j + 1 ≤ s.track.counter.toNat) :
    ∃ t, runs (j + 1) s = .next t ∧
      t = { s with track := { s.track with counter := t.track.counter }, output := .events Events.none } ∧
      t.track.counter.toNat + (j + 1) = s.track.counter.toNat := by
  induction j generalizing s with
  | zero => exact ⟨_, by rw [runs_one, step_idle hq hh (by bv_omega)], rfl, Track.countDown_counter_toNat hj⟩
  | succ j ih =>
    have hcount := Track.countDown_counter_toNat (t := s.track) (by omega)
    have hj' : j + 1 ≤ s.track.countDown.counter.toNat := by omega
    obtain ⟨t, ht, hframe, hsum⟩ :=
      ih (s := { s with track := s.track.countDown, output := .events Events.none }) hq hh hj'
    exact ⟨t, by rw [runs_succ (step_idle hq hh (by bv_omega)), ht], hframe, (congrArg Nat.succ hsum).trans hcount⟩

/-- Settles O47, by induction on the idle ticks (`runs_idle_exact`). -/
theorem idleTicksBetweenCycles : Obligations.IdleTicksBetweenCycles := by
  intro s hq hh j h1 hj
  obtain ⟨i, rfl⟩ := Nat.exists_eq_add_of_le' h1
  exact runs_idle_exact i hq hh hj

/-! ### The decode loop, an equation for each way a turn can go (R116 step 5, R118) -/

section Loop

variable {s t : State} {n : Nat}

theorem decodeLoop_end (hd : dispatch s = .next t) (hv : t.verdict = .endCycle) :
    decodeLoop (n + 1) s = .next t := by
  simp only [decodeLoop, hd, hv, if_true]

theorem decodeLoop_cont (hd : dispatch s = .next t) (hv : t.verdict = .cont) :
    decodeLoop (n + 1) s = decodeLoop n t := by
  simp [decodeLoop, hd, hv]

theorem decodeLoop_refused {r : Refusal} (hd : dispatch s = .refused r) : decodeLoop (n + 1) s = .refused r := by
  simp only [decodeLoop, hd]

/-- The outcome with the decode loop ended in its state; a refusal stays as it is. `update_eq_finished` ties it to
`update`. -/
def finished : Host.Outcome State Fault Refusal → Host.Outcome State Fault Refusal
  | .next t => .next t.finish
  | .fault r => .fault r
  | .refused r => .refused r

theorem finished_eq_refused {o : Host.Outcome State Fault Refusal} {r : Refusal} (h : finished o = .refused r) :
    o = .refused r := by
  cases o with
  | next t => cases h
  | fault r => exact nomatch r
  | refused r => exact h

theorem update_eq_finished (hg : gate s = .decodes t) : update s = finished (decodeLoop dispatchGuard t) := by
  simp only [update, hg]
  cases decodeLoop dispatchGuard t <;> rfl

end Loop

/-! ### Refusals (R129) -/

/-- A decode loop is refused by the fetch of one of its dispatches, over the same memory and `base`. -/
theorem exists_fetch_error_of_decodeLoop {n : Nat} {s : State} {r : Refusal} (h : decodeLoop n s = .refused r) :
    ∃ u, fetch u = .error r ∧ u.mem = s.mem ∧ u.track.base = s.track.base := by
  induction n generalizing s with
  | zero => cases h
  | succ n ih =>
    cases hd : dispatch s with
    | next u =>
      obtain ⟨i, rfl⟩ := dispatch_next hd
      cases hv : verdictOf s.track.accumulator i with
      | endCycle => rw [decodeLoop_end hd hv] at h; cases h
      | cont =>
        rw [decodeLoop_cont hd hv] at h
        obtain ⟨u, hf, hm, hb⟩ := ih h
        exact ⟨u, hf, hm, hb.trans Track.after_base⟩
    | fault r => exact nomatch r
    | refused r' =>
      rw [decodeLoop_refused hd] at h
      cases h
      rcases dispatch_cases s with ⟨i, f, v, -, -, -, hn⟩ | ⟨r, hf, hr⟩
      · rw [hn] at hd; cases hd
      · rw [hr] at hd; cases hd; exact ⟨s, hf, rfl, rfl⟩

/-- Settles O10: only a fetch refuses, and in a window allocated as a whole only by a straddle. -/
theorem updateRefusesOnlyTwoWays : Obligations.UpdateRefusesOnlyTwoWays := by
  intro s r h
  obtain ⟨u, hf, hm, hb⟩ : ∃ u, fetch u = .error r ∧ u.mem = s.mem ∧ u.track.base = s.track.base := by
    rcases gate_returned_or_decodes s with ⟨t, hg, -⟩ | hg
    · rw [update_returned hg] at h; cases h
    · rw [update_eq_finished hg] at h
      exact exists_fetch_error_of_decodeLoop (s := atLoopEntry s) (finished_eq_refused h)
  refine ⟨fetch_error hf, fun hwindow => ?_⟩
  rw [← hm, ← hb] at hwindow
  rcases fetch_of_window_allocated hwindow with ⟨i, hi⟩ | hs
  · rw [hf] at hi; cases hi
  · rw [hf] at hs; cases hs; rfl

/-! ### Zero-tick dispatches (R122) and the events of a decode tick (R126) -/

theorem loopTrack_atLoopEntry {s : State} (hh : s.track.sentHalt = false) (hw : s.track.wait = 0) :
    LoopTrack (atLoopEntry s).track :=
  ⟨hh, rfl, rfl, rfl, hw⟩

theorem LoopTrack.of_dispatch {s t : State} (h : LoopTrack s.track) (hd : dispatch s = .next t)
    (hv : t.verdict = .cont) : LoopTrack t.track := by
  obtain ⟨i, rfl⟩ := dispatch_next hd
  exact h.after hv

theorem LoopTrack.events_eq_none {t : Track} (h : LoopTrack t) : t.events = Events.none := by
  obtain ⟨-, hs, hp, -, -⟩ := h
  simp [Track.events, Events.none, hs, hp]

theorem dispatches_succ {s t : State} (h : dispatch s = .next t) (k : Nat) : dispatches (k + 1) s = dispatches k t := by
  simp only [dispatches, h]

/-- A chain of zero-tick dispatches is what the decode loop does, and it leaves the flags, the counter and the phase
as at the loop's entry. -/
theorem decodeLoop_of_zeroTick (n : Nat) {s t : State} (hs : LoopTrack s.track) (h : dispatches n s = .next t)
    (hcont : ∀ k u, 1 ≤ k → k ≤ n → dispatches k s = .next u → u.verdict = .cont) :
    decodeLoop n s = .next t ∧ LoopTrack t.track ∧ t.phase = s.phase := by
  induction n generalizing s with
  | zero => cases h; exact ⟨rfl, hs, rfl⟩
  | succ n ih =>
    cases hd : dispatch s with
    | next u =>
      have hv : u.verdict = .cont := hcont 1 u le_rfl (by omega) (dispatches_succ hd 0)
      obtain ⟨-, -, -, hphase, -, -⟩ := dispatch_frame hd
      rw [dispatches_succ hd] at h
      rw [decodeLoop_cont hd hv, ← hphase]
      exact ih (hs.of_dispatch hd hv) h fun k v _ hk hkv =>
        hcont (k + 1) v (by omega) (by omega) (by rw [dispatches_succ hd, hkv])
    | fault r => exact nomatch r
    | refused r => simp [dispatches, hd] at h

/-- Settles O44: the guard ends the loop where the chain of dispatches ends. -/
theorem guardCutsTheCycle : Obligations.GuardCutsTheCycle := by
  intro s t hr h hcont
  have ⟨⟨hbetween, _⟩, hh, _, hw⟩ := hr
  obtain ⟨hl, ht, hphase⟩ := decodeLoop_of_zeroTick 255 (loopTrack_atLoopEntry hh hw) h hcont
  have htp : t.phase = .between := hphase.trans hbetween
  have hfinish : t.finish = { t with output := .events Events.none } := by
    rw [State.finish, ht.events_eq_none, ← htp]
  obtain ⟨-, hs, hp, hc, -⟩ := ht
  refine ⟨?_, hc, hs, hp⟩
  rw [update_eq_finished (gate_ready hr), dispatchGuard, hl, finished, hfinish]

/-- Before every dispatch of the loop no flag is up, so its last one raises at most one. -/
theorem trackInv_of_decodeLoop {n : Nat} {s t : State} (hs : LoopTrack s.track) (h : decodeLoop n s = .next t) :
    TrackInv t.track := by
  induction n generalizing s with
  | zero => cases h; exact hs.trackInv
  | succ n ih =>
    cases hd : dispatch s with
    | next u =>
      cases hv : u.verdict with
      | endCycle =>
        rw [decodeLoop_end hd hv] at h
        cases h
        obtain ⟨i, rfl⟩ := dispatch_next hd
        exact hs.trackInv_after i
      | cont =>
        rw [decodeLoop_cont hd hv] at h
        exact ih (hs.of_dispatch hd hv) h
    | fault r => exact nomatch r
    | refused r => rw [decodeLoop_refused hd] at h; cases h

theorem Track.events_syscall_or_play {t : Track} (h : ¬(t.sentSyscall = true ∧ t.sentPlay = true))
    (hs : t.events.syscall.isSome = true) : t.events.play = none := by
  have hsys : t.sentSyscall = true := by
    by_contra hn
    simp [Track.events, hn] at hs
  exact if_neg fun hp => h ⟨hsys, hp⟩

/-- Settles O46: a gate emits `halt` or nothing; a decode tick emits what its flags say, of which one is down. -/
theorem atMostOneEvent : Obligations.AtMostOneEvent := by
  intro s t hf h
  rcases gate_cases s with ⟨-, hg⟩ | ⟨-, -, hg⟩ | ⟨-, -, -, hg⟩ | ⟨hh, -, hw, hg⟩
  · rw [update_returned hg] at h; cases h
    exact ⟨hf, _, rfl, fun _ => ⟨rfl, rfl⟩, fun _ => rfl⟩
  · rw [update_returned hg] at h; cases h
    exact ⟨hf, _, rfl, fun _ => ⟨rfl, rfl⟩, fun _ => rfl⟩
  · rw [update_returned hg] at h; cases h
    exact ⟨by simp, _, rfl, fun _ => ⟨rfl, rfl⟩, fun _ => rfl⟩
  · obtain ⟨v, hv, rfl⟩ := update_decodes hg h
    obtain ⟨hone, -, -⟩ := trackInv_of_decodeLoop (loopTrack_atLoopEntry hh hw) hv
    exact ⟨hone, _, rfl, fun hhalt => (Bool.false_ne_true hhalt).elim, Track.events_syscall_or_play hone⟩

/-! ### The steps carry out `update()` (R115, R116, R118) -/

theorem finished_decodeLoop_withPhase (n : Nat) (s : State) (p : Phase) :
    finished (decodeLoop n { s with phase := p }) = finished (decodeLoop n s) := by
  induction n generalizing s with
  | zero => rfl
  | succ n ih =>
    have hp := dispatch_withPhase s p
    cases hd : dispatch s with
    | next u =>
      rw [hd] at hp
      cases hv : u.verdict with
      | endCycle => rw [decodeLoop_end hp hv, decodeLoop_end hd hv]; rfl
      | cont => rw [decodeLoop_cont hp hv, decodeLoop_cont hd hv, ih]
    | fault r => exact nomatch r
    | refused r =>
      rw [hd] at hp
      rw [decodeLoop_refused hp, decodeLoop_refused hd]

/-- One turn of the loop with `n` dispatches made, and `m` left after it: the loop of R116 ends with this turn, or the
machine goes on with the count one higher to where that loop ends. -/
theorem dispatchStep_ends_or_continues {n m : Nat} (hn : n + (m + 1) = 255) (s : State) :
    dispatchStep n s = finished (decodeLoop (m + 1) s) ∨
    ∃ u, 0 < m ∧ dispatchStep n s = .next u ∧ u.phase = .decoding (n + 1) ∧
      finished (decodeLoop (m + 1) s) = finished (decodeLoop m u) := by
  rw [dispatchStep_lt (by omega)]
  cases hd : dispatch s with
  | next u =>
    cases hv : u.verdict with
    | endCycle => rw [afterDispatch_end (.inl hv), decodeLoop_end hd hv]; exact .inl rfl
    | cont =>
      rw [decodeLoop_cont hd hv]
      cases m with
      | zero => exact .inl (afterDispatch_end (.inr (by omega)))
      | succ m =>
        exact .inr ⟨_, m.succ_pos, afterDispatch_cont hv (by omega), rfl,
          (finished_decodeLoop_withPhase (m + 1) u (.decoding (n + 1))).symm⟩
  | fault r => exact nomatch r
  | refused r => rw [decodeLoop_refused hd]; exact .inl rfl

/-- From a turn of the loop on, with `m` dispatches left after it, the steps end where the loop of R116 ends, and until
then the loop is in progress with the count of the dispatches made. -/
theorem runs_decodeLoop (m : Nat) {n : Nat} {s e : State} (hs : step s = dispatchStep n e) (hn : n + (m + 1) = 255) :
    ∃ k, k ≤ m ∧ runs (k + 1) s = finished (decodeLoop (m + 1) e) ∧
      ∀ j, 1 ≤ j → j ≤ k → ∃ t, runs j s = .next t ∧ t.phase = .decoding (n + j) := by
  induction m generalizing n s e with
  | zero =>
    rcases dispatchStep_ends_or_continues hn e with hend | ⟨u, hm, -⟩
    · exact ⟨0, le_rfl, by rw [runs_one, hs, hend], fun j h1 h0 => by omega⟩
    · exact absurd hm (Nat.lt_irrefl 0)
  | succ m ih =>
    rcases dispatchStep_ends_or_continues hn e with hend | ⟨u, -, hu, hphase, hloop⟩
    · exact ⟨0, Nat.zero_le _, by rw [runs_one, hs, hend], fun j h1 h0 => by omega⟩
    · obtain ⟨k, hk, hruns, hbetween⟩ := ih (step_decoding hphase) (by omega)
      rw [hu] at hs
      refine ⟨k + 1, by omega, by rw [runs_succ hs, hruns, hloop], fun j h1 hj => ?_⟩
      obtain ⟨i, rfl⟩ := Nat.exists_eq_add_of_le' h1
      rw [runs_succ hs]
      cases i with
      | zero => exact ⟨u, rfl, hphase⟩
      | succ i =>
        obtain ⟨t, ht, htp⟩ := hbetween (i + 1) (by omega) (by omega)
        exact ⟨t, ht, by rw [htp, Nat.add_right_comm, Nat.add_assoc]⟩

/-- Settles O43: a tick that a gate ends is one step; a decode tick is `runs_decodeLoop` from the loop's entry. -/
theorem stepsRefineUpdate : Obligations.StepsRefineUpdate := by
  intro s hq
  have ⟨hp, hpending⟩ := hq
  rcases gate_returned_or_decodes s with ⟨t, hg, htp⟩ | hg
  · have hu := update_returned hg
    refine ⟨1, le_rfl, by decide, ?_, fun j h1 hj => by omega, fun t' ht' => ?_⟩
    · rw [runs_one, step_quiet hp hpending, tick_returned hg, hu]
    · rw [hu] at ht'; cases ht'
      exact htp.trans hp
  · have hs : step s = dispatchStep 0 (atLoopEntry s) := by rw [step_quiet hp hpending, tick_decodes hg]
    obtain ⟨k, hk, hruns, hbetween⟩ := runs_decodeLoop 254 hs rfl
    refine ⟨k + 1, by omega, by omega, hruns.trans (update_eq_finished hg).symm, fun j h1 hj => ?_, fun t ht => ?_⟩
    · simpa only [Nat.zero_add] using hbetween j h1 (by omega)
    · obtain ⟨v, -, rfl⟩ := update_decodes hg ht
      rfl

end Sys2Proof.Machine

/-! ## Control family (spec/43_vm_control.md): what a retired instruction keeps, its bytes, and the branch -/

namespace Sys2Proof.Machine

open Sys2Proof Sys2Proof.Safety

/-! ### The bytes in the spec's own words (R52, R72, R75) -/

theorem loByte_eq_lowByte (w : Word) : loByte w = lowByte w :=
  BitVec.eq_of_toNat_eq (by rw [loByte_toNat, lowByte, BitVec.toNat_ofNat]; omega)

theorem hiByte_eq_highByte (w : Word) : hiByte w = highByte w :=
  BitVec.eq_of_toNat_eq (by rw [hiByte_toNat, highByte, BitVec.toNat_ofNat]; omega)

/-- What the encoder gives decodes back, so the encoder's bytes settle an encoding (R74). -/
theorem encodes_of_encode {i : Instr} {bytes : List Byte} (hv : i.isVm = true) (hwf : i.wf = true)
    (h : encode i = bytes) : Encodes i bytes :=
  ⟨h, fun rest => h ▸ decode_encode hv hwf rest⟩

/-- A 16-bit operand stands low byte first behind the opcode (R52). -/
theorem encodes_of_encode_word {i : Instr} {op : Byte} {a : Word} (hv : i.isVm = true) (hwf : i.wf = true)
    (h : encode i = [op, loByte a, hiByte a]) : Encodes i [op, lowByte a, highByte a] :=
  encodes_of_encode hv hwf (by rw [h, loByte_eq_lowByte, hiByte_eq_highByte])

/-! ### What retiring an instruction keeps and delivers (R14, R22, R124) -/

theorem onlyTrack_retire (s : State) (t : Track) (v : Verdict) : OnlyTrack s (s.retire t v) :=
  ⟨rfl, fun _ => rfl, rfl, rfl, rfl, rfl, rfl⟩

theorem cursorAdvanced_retire {s : State} {t : Track} {n : Nat}
    (h : t.cursor = s.track.cursor + BitVec.ofNat 16 n) (v : Verdict) : CursorAdvanced n s (s.retire t v) := by
  rw [CursorAdvanced, State.retire_track, h, BitVec.toNat_add, BitVec.toNat_ofNat, Nat.add_mod_mod]

/-- An instruction that ends the cycle ends the tick too, and with both request flags down before it the tick's
events are the one it asks for (R124). -/
theorem afterDispatch_exec_of_endCycle {i : Instr} {s : State} (hv : i.isVm = true)
    (he : verdictOf s.track.accumulator i = .endCycle) (hs : s.track.sentSyscall = false)
    (hp : s.track.sentPlay = false) (n : Nat) :
    afterDispatch n (exec i s) =
      .next { s.retire (s.track.after i) .endCycle with phase := .between, output := .events (requestOf i) } := by
  rw [exec_vm_eq hv, he, afterDispatch_end (.inl rfl), ← Track.events_after hs hp i]
  rfl

/-! ### The statements without a branch -/

/-- Settles O11: `exec_vm_eq` at NOP. -/
theorem nopAdvancesAndEnds : Obligations.NopAdvancesAndEnds :=
  ⟨encodes_of_encode rfl rfl rfl, fun s =>
    ⟨_, exec_vm_eq rfl s, onlyTrack_retire .., rfl, cursorAdvanced_retire rfl _, rfl,
      afterDispatch_exec_of_endCycle rfl rfl⟩⟩

/-- Settles O12: `exec_vm_eq` at HALT, and the gate that its flag closes. -/
theorem haltSetsSentHalt : Obligations.HaltSetsSentHalt := by
  refine ⟨encodes_of_encode rfl rfl rfl, fun s => ?_, fun s hh => update_returned (gate_halted hh)⟩
  exact ⟨_, exec_vm_eq rfl s, onlyTrack_retire .., rfl, cursorAdvanced_retire rfl _, rfl,
    afterDispatch_exec_of_endCycle rfl rfl⟩

/-- Settles O13: `exec_vm_eq` at JUMP. -/
theorem jumpSetsCursor : Obligations.JumpSetsCursor := fun _ =>
  ⟨encodes_of_encode_word rfl rfl rfl, fun s => ⟨_, exec_vm_eq rfl s, onlyTrack_retire .., rfl, rfl⟩⟩

/-! ### The branch (R138, R139) -/

theorem exec_ifJump (a : Word) (s : State) : exec (.ifJump a) s = .next (s.branch s.track.accumulator a) := rfl

theorem exec_ifNotJump (a : Word) (s : State) :
    exec (.ifNotJump a) s = .next (s.branch (!s.track.accumulator) a) := rfl

theorem State.branch_taken (s : State) (a : Word) : s.branch true a = s.retire (s.track.jumpTo a) .cont := rfl

theorem State.branch_notTaken (s : State) (a : Word) :
    s.branch false a = s.retire (s.track.advance 3) .endCycle := rfl

/-- A branch writes `cursor` alone: the target when taken, else the next instruction, and only then the cycle
ends. -/
theorem State.branch_follows (s : State) (taken : Bool) (a : Word) :
    OnlyTrack s (s.branch taken a) ∧
    (s.branch taken a).track = { s.track with cursor := (s.branch taken a).track.cursor } ∧
    (if taken = true then (s.branch taken a).track.cursor = a ∧ (s.branch taken a).verdict = .cont
     else CursorAdvanced 3 s (s.branch taken a) ∧ (s.branch taken a).verdict = .endCycle) := by
  cases taken with
  | true =>
    rw [State.branch_taken, if_pos rfl]
    exact ⟨onlyTrack_retire .., rfl, rfl, rfl⟩
  | false =>
    rw [State.branch_notTaken, if_neg Bool.false_ne_true]
    exact ⟨onlyTrack_retire .., rfl, cursorAdvanced_retire rfl _, rfl⟩

/-- Settles O14: the branch taken on the accumulator. -/
theorem ifJumpFollowsAccumulator : Obligations.IfJumpFollowsAccumulator := fun a =>
  ⟨encodes_of_encode_word rfl rfl rfl, fun s => ⟨_, exec_ifJump a s, s.branch_follows _ a⟩⟩

/-- Settles O15: the branch taken on the accumulator's negation. -/
theorem ifNotJumpFollowsAccumulator : Obligations.IfNotJumpFollowsAccumulator := by
  refine fun a => ⟨encodes_of_encode_word rfl rfl rfl, fun s => ⟨_, exec_ifNotJump a s, ?_⟩⟩
  simpa only [Bool.not_eq_true'] using s.branch_follows (!s.track.accumulator) a

end Sys2Proof.Machine

/-! ## Register family (spec/44_vm_register.md): the register modulo 256, and the five unsigned compares -/

namespace Sys2Proof.Machine

open Sys2Proof Sys2Proof.Safety

/-! ### The register (R145 to R147) -/

/-- Settles O16: `exec_vm_eq` at SET. -/
theorem setLoadsRegister : Obligations.SetLoadsRegister := fun _ =>
  ⟨encodes_of_encode rfl rfl rfl, fun s =>
    ⟨_, exec_vm_eq rfl s, onlyTrack_retire .., rfl, cursorAdvanced_retire rfl _, rfl⟩⟩

/-- Settles O17: `exec_vm_eq` at ADD; a byte's addition is the one modulo 256. -/
theorem addWrapsModulo256 : Obligations.AddWrapsModulo256 := fun v =>
  ⟨encodes_of_encode rfl rfl rfl, fun s =>
    ⟨_, exec_vm_eq rfl s, onlyTrack_retire .., rfl, cursorAdvanced_retire rfl _, rfl,
      BitVec.toNat_add s.track.register v⟩⟩

/-- A byte's subtraction wraps as the non-negative `mod` of R8 does. -/
theorem byte_toNat_sub (r v : Byte) : ((r - v).toNat : Int) = ((r.toNat : Int) - (v.toNat : Int)) % 256 := by
  have hv : v.toNat < 256 := v.isLt
  rw [BitVec.toNat_sub]
  omega

/-- Settles O18: `exec_vm_eq` at SUB. -/
theorem subWrapsModulo256 : Obligations.SubWrapsModulo256 := fun v =>
  ⟨encodes_of_encode rfl rfl rfl, fun s =>
    ⟨_, exec_vm_eq rfl s, onlyTrack_retire .., rfl, cursorAdvanced_retire rfl _, rfl,
      byte_toNat_sub s.track.register v⟩⟩

/-! ### The compares (R148 to R152): each one's accumulator is decided on the numbers, `register` on the left -/

theorem cmpEqual_eq_decide (r v : Byte) : cmpEqual r v = decide (r.toNat = v.toNat) := by
  rw [Bool.eq_iff_iff, decide_eq_true_iff, ← BitVec.toNat_eq]
  exact beq_iff_eq

section Compares

variable (v : Byte) (s : State)

theorem exec_equal : exec (.equal v) s = .next (s.compare (decide (s.track.register.toNat = v.toNat))) := by
  rw [← cmpEqual_eq_decide]
  rfl

theorem exec_lt : exec (.lt v) s = .next (s.compare (decide (s.track.register.toNat < v.toNat))) := rfl

theorem exec_gt : exec (.gt v) s = .next (s.compare (decide (s.track.register.toNat > v.toNat))) := rfl

theorem exec_ltEqual : exec (.ltEqual v) s = .next (s.compare (decide (s.track.register.toNat ≤ v.toNat))) := rfl

theorem exec_gtEqual : exec (.gtEqual v) s = .next (s.compare (decide (s.track.register.toNat ≥ v.toNat))) := rfl

@[simp] theorem State.compare_accumulator (b : Bool) : (s.compare b).track.accumulator = b := rfl

end Compares

/-- An instruction that compares by `P` writes the truth value of `P` into `accumulator`, moves the cursor behind
its two bytes and goes on. -/
theorem exec_of_compare {i : Instr} {s : State} {P : Prop} [Decidable P] {p : Bool}
    (he : exec i s = .next (s.compare (decide P))) (hp : p = true ↔ P) :
    ∃ t, exec i s = .next t ∧ OnlyTrack s t ∧ t.verdict = .cont ∧ CursorAdvanced 2 s t ∧
      t.track = { s.track with accumulator := p, cursor := t.track.cursor } := by
  obtain rfl : decide P = p := Bool.eq_iff_iff.mpr (decide_eq_true_iff.trans hp.symm)
  exact ⟨_, he, onlyTrack_retire .., rfl, cursorAdvanced_retire rfl _, rfl⟩

/-- Settles O19: `exec_of_compare` at each of the five. -/
theorem comparesWriteAccumulator : Obligations.ComparesWriteAccumulator := by
  refine fun v => ⟨⟨encodes_of_encode rfl rfl rfl, encodes_of_encode rfl rfl rfl, encodes_of_encode rfl rfl rfl,
    encodes_of_encode rfl rfl rfl, encodes_of_encode rfl rfl rfl⟩, fun s i p h => ?_⟩
  rcases h with ⟨rfl, hp⟩ | ⟨rfl, hp⟩ | ⟨rfl, hp⟩ | ⟨rfl, hp⟩ | ⟨rfl, hp⟩
  · exact exec_of_compare (exec_equal v s) hp
  · exact exec_of_compare (exec_lt v s) hp
  · exact exec_of_compare (exec_gt v s) hp
  · exact exec_of_compare (exec_ltEqual v s) hp
  · exact exec_of_compare (exec_gtEqual v s) hp

/-! ### The outcome table (R154) -/

/-- The column of the table for each ordering of two numbers. -/
theorem decide_compares_eq (r v : Nat) :
    [decide (r = v), decide (r < v), decide (r > v), decide (r ≤ v), decide (r ≥ v)] =
      if r < v then [false, true, false, true, false]
      else if r = v then [true, false, false, true, true]
      else [false, false, true, false, true] := by
  rcases lt_trichotomy r v with hlt | rfl | hgt
  · simp [hlt, hlt.ne, hlt.le, hlt.not_gt, hlt.not_ge]
  · simp
  · simp [hgt, hgt.ne', hgt.le, hgt.not_gt, hgt.not_ge]

/-- Settles O20: the equations of the five compares, and the table for numbers. -/
theorem compareOutcomeTable : Obligations.CompareOutcomeTable := by
  refine fun s v => ⟨_, _, _, _, _, exec_equal v s, exec_lt v s, exec_gt v s, exec_ltEqual v s,
    exec_gtEqual v s, ?_⟩
  simp only [State.compare_accumulator]
  exact decide_compares_eq s.track.register.toNat v.toNat

end Sys2Proof.Machine

/-! ## Timing family (spec/45_vm_timing.md): what TICKS, TICKS16, WAIT and WAIT16 write -/

namespace Sys2Proof.Machine

open Sys2Proof Sys2Proof.Safety

/-- Zero extension keeps the number (R9, R72). -/
@[simp] theorem zext16_toNat (v : Byte) : (zext16 v).toNat = v.toNat :=
  BitVec.toNat_setWidth_of_le (by decide)

/-! ### The tick rate (R160, R161) -/

/-- Settles O21: `exec_vm_eq` at TICKS; the rate written is the operand zero-extended. -/
theorem ticksSetsRateAndCounter : Obligations.TicksSetsRateAndCounter := fun v =>
  ⟨encodes_of_encode rfl rfl rfl, fun s =>
    ⟨_, exec_vm_eq rfl s, onlyTrack_retire .., rfl, cursorAdvanced_retire rfl _, rfl, zext16_toNat v⟩⟩

/-- Settles O22: `exec_vm_eq` at TICKS16. -/
theorem ticks16SetsRateAndCounter : Obligations.Ticks16SetsRateAndCounter := fun _ =>
  ⟨encodes_of_encode_word rfl rfl rfl, fun s =>
    ⟨_, exec_vm_eq rfl s, onlyTrack_retire .., rfl, cursorAdvanced_retire rfl _, rfl⟩⟩

/-! ### The wait (R162, R163) -/

/-- Settles O23: `exec_vm_eq` at WAIT; the wait written is the operand zero-extended. -/
theorem waitSetsWait : Obligations.WaitSetsWait := fun v =>
  ⟨encodes_of_encode rfl rfl rfl, fun s =>
    ⟨_, exec_vm_eq rfl s, onlyTrack_retire .., rfl, cursorAdvanced_retire rfl _, rfl, zext16_toNat v⟩⟩

/-- Settles O24: `exec_vm_eq` at WAIT16. -/
theorem wait16SetsWait : Obligations.Wait16SetsWait := fun _ =>
  ⟨encodes_of_encode_word rfl rfl rfl, fun s =>
    ⟨_, exec_vm_eq rfl s, onlyTrack_retire .., rfl, cursorAdvanced_retire rfl _, rfl⟩⟩

end Sys2Proof.Machine

/-! ## Events family (spec/46_vm_events.md): what SYSCALL, INSTRUMENT, PLAY and NOTE write, and the tick's event -/

namespace Sys2Proof.Machine

open Sys2Proof Sys2Proof.Safety

/-! ### The event of a request (R124): the request's own flag may be up before it, the other flag is down -/

theorem Track.events_requestSyscall {t : Track} (hp : t.sentPlay = false) (c : Word) (n : Nat) :
    ((t.requestSyscall c).advance n).events = { halt := false, syscall := some c, play := none } := by
  simp [Track.events, hp]

theorem Track.events_requestPlay {t : Track} (hs : t.sentSyscall = false) (v : Byte) (n : Nat) :
    ((t.requestPlay v).advance n).events = { halt := false, syscall := none, play := some v } := by
  simp [Track.events, hs]

/-- An instruction that ends the cycle ends the tick too, with the events of the Track it leaves (R116 step 5, R124);
nothing is asked of the flags before it. -/
theorem afterDispatch_exec_of_events {i : Instr} {s : State} {e : Events} (hv : i.isVm = true)
    (he : verdictOf s.track.accumulator i = .endCycle) (hev : (s.track.after i).events = e) (n : Nat) :
    afterDispatch n (exec i s) =
      .next { s.retire (s.track.after i) .endCycle with phase := .between, output := .events e } := by
  rw [exec_vm_eq hv, he, afterDispatch_end (.inl rfl), ← hev]
  rfl

/-! ### The statements -/

/-- Settles O25: `exec_vm_eq` at SYSCALL; the tick's event is the one of the request just stored. -/
theorem syscallRequestsHost : Obligations.SyscallRequestsHost := fun c =>
  ⟨encodes_of_encode_word rfl rfl rfl, fun s =>
    ⟨_, exec_vm_eq rfl s, onlyTrack_retire .., rfl, cursorAdvanced_retire rfl _, rfl, fun hp =>
      afterDispatch_exec_of_events rfl rfl (Track.events_requestSyscall hp c 3)⟩⟩

/-- Settles O26: `exec_vm_eq` at INSTRUMENT. -/
theorem instrumentIsZeroTick : Obligations.InstrumentIsZeroTick := fun _ =>
  ⟨encodes_of_encode rfl rfl rfl, fun s =>
    ⟨_, exec_vm_eq rfl s, onlyTrack_retire .., rfl, cursorAdvanced_retire rfl _, rfl⟩⟩

/-- Settles O27: `exec_vm_eq` at PLAY; the tick's event is the one of the request just stored. -/
theorem playRequestsNote : Obligations.PlayRequestsNote := fun v =>
  ⟨encodes_of_encode rfl rfl rfl, fun s =>
    ⟨_, exec_vm_eq rfl s, onlyTrack_retire .., rfl, cursorAdvanced_retire rfl _, rfl, fun hs =>
      afterDispatch_exec_of_events rfl rfl (Track.events_requestPlay hs v 2)⟩⟩

/-- A byte below the opcodes is a well-formed NOTE (R76). -/
theorem wf_note_of_lt {b : Byte} (h : b.toNat < 0xEC) : (Instr.note b).wf = true :=
  opcodeOf_none.mp (opcodeOf_opc_eq_none.mpr h)

/-- Settles O28: `exec_vm_eq` at NOTE, whose request is PLAY's with the opcode byte as the datum. -/
theorem noteRequestsItself : Obligations.NoteRequestsItself := fun b =>
  ⟨fun h => encodes_of_encode rfl (wf_note_of_lt h) rfl, fun s =>
    ⟨_, exec_vm_eq rfl s, onlyTrack_retire .., rfl, cursorAdvanced_retire rfl _, rfl, fun hs =>
      afterDispatch_exec_of_events rfl rfl (Track.events_requestPlay hs b 1)⟩⟩

end Sys2Proof.Machine

/-! ## Assembler family (spec/47_assembler.md): the buffer is the calls' bytes in call order, and decodes to them -/

namespace Sys2Proof.Machine

/-! ### The buffer (R180, R181, R185) -/

theorem bytecode_eq_flatMap (calls : List AsmCall) : bytecode calls = calls.flatMap AsmCall.bytes :=
  (List.flatMap_eq_foldl ..).symm

theorem bytecode_cons (call : AsmCall) (calls : List AsmCall) :
    bytecode (call :: calls) = call.bytes ++ bytecode calls := by
  simp only [bytecode_eq_flatMap, List.flatMap_cons]

theorem bytecode_append (before after : List AsmCall) :
    bytecode (before ++ after) = bytecode before ++ bytecode after := by
  simp only [bytecode_eq_flatMap, List.flatMap_append]

/-- Settles O60: the buffer of joined sequences is the joined buffers, so the call's bytes begin after those of the
earlier calls. -/
theorem assemblerAppends : Obligations.AssemblerAppends := by
  intro before after call
  have joined : bytecode (before ++ call :: after) = bytecode before ++ call.bytes ++ bytecode after := by
    rw [bytecode_append, bytecode_cons, List.append_assoc]
  refine ⟨joined, fun k b hk => ?_⟩
  obtain ⟨hlt, -⟩ := List.getElem?_eq_some_iff.mp hk
  rw [joined, List.append_assoc, bytecodeLen, List.getElem?_append_right (Nat.le_add_right ..),
    Nat.add_sub_cancel_left, List.getElem?_append_left hlt, hk]

/-! ### One call (R181, R182) -/

theorem loByte_reduce16 (x : Int) : loByte (reduce16 x) = asmLo x := by
  apply BitVec.eq_of_toNat_eq
  simp only [loByte_toNat, reduce16, asmLo, BitVec.toNat_ofNat]
  omega

theorem hiByte_reduce16 (x : Int) : hiByte (reduce16 x) = asmHi x := by
  apply BitVec.eq_of_toNat_eq
  simp only [hiByte_toNat, reduce16, asmHi, BitVec.toNat_ofNat]
  omega

/-- A call's bytes are the encoding of the instruction it describes: an 8-bit argument is its low byte, a 16-bit one
is reduced by reducing its two bytes. -/
theorem AsmCall.bytes_eq_encode {call : AsmCall} {i : Instr} (h : call.instr = some i) : call.bytes = encode i := by
  cases call with
  | db bs => cases h
  | jump a | ifjump a | ifnotjump a | syscall a | ticks16 a | wait16 a =>
    cases h
    simp only [AsmCall.bytes, encode, encodeWith, loByte_reduce16, hiByte_reduce16]
  | _ => cases h; rfl

theorem AsmCall.instr_isVm_wf {call : AsmCall} {i : Instr} (h : call.instr = some i) :
    i.isVm = true ∧ i.wf = true := by
  cases call with
  | db bs => cases h
  | _ => cases h; exact ⟨rfl, rfl⟩

theorem AsmCall.decode_bytes {call : AsmCall} {i : Instr} (h : call.instr = some i) (rest : List Byte) :
    decode (call.bytes ++ rest) = .ok (i, rest) := by
  obtain ⟨hv, hwf⟩ := AsmCall.instr_isVm_wf h
  rw [AsmCall.bytes_eq_encode h, decode_encode hv hwf]

/-! ### A whole byte string (R183) -/

section Decoder

variable {m : Opcode → Byte} {bytes rest : List Byte} {i : Instr}

/-- Every instruction has a byte, so the decoder's `fuel` can be the length of the string. -/
theorem length_lt_of_decodeWith (h : decodeWith m bytes = .ok (i, rest)) : rest.length < bytes.length := by
  rcases decodeWith_ok h with ⟨b, -, rfl, -⟩ | ⟨b, o, b1, b2, -, rfl, -⟩
  · exact Nat.lt_succ_self _
  · simp only [List.length_cons, List.length_append]
    omega

theorem decodeAll_of_decodeWith {fuel : Nat} {is : List Instr} (h : decodeWith m bytes = .ok (i, rest))
    (hrest : decodeAll m fuel rest = .ok is) : decodeAll m (fuel + 1) bytes = .ok (i :: is) := by
  cases bytes with
  | nil => cases h
  | cons b more => simp only [decodeAll, h, hrest]

end Decoder

/-- Each call's bytes decode to its instruction and leave those of the later calls; there is fuel for them, since the
call had a byte. -/
theorem decodeAll_bytecode {calls : List AsmCall} {is : List Instr}
    (h : List.Forall₂ (fun call i => call.instr = some i) calls is) :
    ∀ fuel, (bytecode calls).length ≤ fuel → decodeAll opc fuel (bytecode calls) = .ok is := by
  induction h with
  | nil => exact fun fuel _ => by cases fuel <;> rfl
  | @cons call i calls is hcall _ ih =>
    intro fuel hfuel
    rw [bytecode_cons] at hfuel ⊢
    have first := AsmCall.decode_bytes hcall (bytecode calls)
    have shorter := length_lt_of_decodeWith first
    obtain ⟨left, rfl⟩ := Nat.exists_eq_add_one_of_ne_zero (show fuel ≠ 0 by omega)
    exact decodeAll_of_decodeWith first (ih left (by omega))

/-- Settles O59: the calls describe the instructions one by one, and the string's length is fuel enough. -/
theorem assemblerContract : Obligations.AssemblerContract := by
  intro calls is h
  rw [← List.forall₂_eq_eq_eq, List.forall₂_map_left_iff, List.forall₂_map_right_iff] at h
  exact decodeAll_bytecode h _ le_rfl

end Sys2Proof.Machine

/-! ## Exceptions and reset families (spec/60_exceptions.md, spec/70_reset_and_hazards.md): a Track among the others -/

namespace Sys2Proof.Machine

open Sys2Proof Sys2Proof.Safety

/-! ### The decode loop reads the current Track and memory, and writes the current Track (R217) -/

/-- The outcome with its Track and verdict retired in the machine `s`; a refusal stays as it is. `dispatch_eq_retiredIn`
and `decodeLoop_eq_retiredIn` tie it to the machine. -/
def retiredIn (s : State) : Host.Outcome State Fault Refusal → Host.Outcome State Fault Refusal
  | .next t => .next (s.retire t.track t.verdict)
  | .fault r => .fault r
  | .refused r => .refused r

theorem retiredIn_retire (s : State) (t : Track) (v : Verdict) : retiredIn (s.retire t v) = retiredIn s := by
  funext o
  cases o <;> rfl

section SameTrack

variable {s s' : State}

theorem dispatch_eq_retiredIn (ht : s'.track = s.track) (hm : s'.mem = s.mem) :
    dispatch s' = retiredIn s' (dispatch s) := by
  have hf := fetch_congr ht hm
  rcases dispatch_cases s with ⟨i, f, v, hi, -, he, hd⟩ | ⟨r, hi, hd⟩
  · rw [hd, dispatch_of_fetch_ok (hf.trans hi), he, ht]
    rfl
  · rw [hd, dispatch_of_fetch_error (hf.trans hi)]
    rfl

/-- A loop does in any machine with the same Track and memory what it does in this one (one that makes no dispatch
leaves the verdict it finds); with `s' = s` this says that it changes nothing but the Track and the verdict. -/
theorem decodeLoop_eq_retiredIn (n : Nat) (hv : n = 0 → s'.verdict = s.verdict) (ht : s'.track = s.track)
    (hm : s'.mem = s.mem) : decodeLoop n s' = retiredIn s' (decodeLoop n s) := by
  induction n generalizing s s' with
  | zero => simp only [decodeLoop, retiredIn, ← ht, ← hv rfl]; rfl
  | succ n ih =>
    have hd' := dispatch_eq_retiredIn ht hm
    cases hd : dispatch s with
    | next u =>
      rw [hd] at hd'
      cases hverdict : u.verdict with
      | endCycle => rw [decodeLoop_end hd' hverdict, decodeLoop_end hd hverdict]; rfl
      | cont =>
        have hum : s'.mem = u.mem := hm.trans (dispatch_mem hd).symm
        rw [decodeLoop_cont hd' hverdict, decodeLoop_cont hd hverdict,
          ih (s := u) (s' := s'.retire u.track u.verdict) (fun _ => rfl) rfl hum, retiredIn_retire]
    | fault r => exact nomatch r
    | refused r =>
      rw [hd] at hd'
      rw [decodeLoop_refused hd', decodeLoop_refused hd]
      rfl

theorem decodeLoop_parked {n : Nat} {t : State} (h : decodeLoop n s = .next t) : t.parked = s.parked := by
  have hself := decodeLoop_eq_retiredIn (s := s) (s' := s) n (fun _ => rfl) rfl rfl
  rw [h, retiredIn] at hself
  exact (congrArg State.parked (Host.Outcome.next.inj hself) :)

/-- Two `update()`s over the same Track and memory both complete, with the same Track and record and each with its own
parked Tracks, or are refused alike. -/
theorem update_of_same_track (ht : s'.track = s.track) (hm : s'.mem = s.mem) :
    (∃ t t', update s = .next t ∧ update s' = .next t' ∧ t.parked = s.parked ∧ t'.parked = s'.parked ∧
      t'.track = t.track ∧ t'.output = t.output) ∨
    ∃ r, update s = .refused r ∧ update s' = .refused r := by
  rcases gate_cases s with ⟨hh, hg⟩ | ⟨hh, hc, hg⟩ | ⟨hh, hc, hw, hg⟩ | ⟨hh, hc, hw, hg⟩
  · have hg' := gate_halted (s := s') (by rwa [ht])
    exact .inl ⟨_, _, update_returned hg, update_returned hg', rfl, rfl, ht, rfl⟩
  · have hg' := gate_idle (s := s') (by rwa [ht]) (by rwa [ht])
    exact .inl ⟨_, _, update_returned hg, update_returned hg', rfl, rfl, by rw [ht], rfl⟩
  · have hg' := gate_wait (s := s') (by rwa [ht]) (by rwa [ht]) (by rwa [ht])
    exact .inl ⟨_, _, update_returned hg, update_returned hg', rfl, rfl, by rw [ht], rfl⟩
  · have hg' := gate_open (s := s') (by rwa [ht]) (by rwa [ht]) (by rwa [ht])
    have htrack : (atLoopEntry s').track = (atLoopEntry s).track := by simp only [atLoopEntry, ht]
    have hloop := decodeLoop_eq_retiredIn dispatchGuard nofun htrack hm
    rw [update_eq_finished (t := atLoopEntry s) hg, update_eq_finished (t := atLoopEntry s') hg', hloop]
    cases hl : decodeLoop dispatchGuard (atLoopEntry s) with
    | next v => exact .inl ⟨_, _, rfl, rfl, (decodeLoop_parked hl :), rfl, rfl, rfl⟩
    | fault r => exact nomatch r
    | refused r => exact .inr ⟨r, rfl, rfl⟩

end SameTrack

/-- Settles O53: the cases of `update_of_same_track`. -/
theorem tracksAreIndependent : Obligations.TracksAreIndependent := by
  intro s s' ht hm
  rcases update_of_same_track ht hm with ⟨t, t', hu, hu', hp, hp', htrack, hout⟩ | ⟨r, hu, hu'⟩
  · rw [hu]
    refine ⟨fun _ h => ?_, fun _ h => nomatch h⟩
    cases h
    exact ⟨hp, t', hu', htrack, hout, hp'⟩
  · rw [hu]
    refine ⟨fun _ h => (nomatch h), fun _ h => ?_⟩
    cases h
    exact hu'

/-! ### Choosing a Track (R210) -/

theorem step_selectTrack {s : State} {k : Nat} {t : Track} {more : List HostOp} (hp : s.phase = .between)
    (h : s.pending = .selectTrack k :: more) (hk : s.parked[k]? = some t) :
    step s = .next { s with track := t, parked := s.parked.set k s.track, output := .nothing, pending := more } :=
  (step_pending hp h).trans (hostSelectTrack_some hk)

/-- Settles O54: the first swap leaves the Track that was current at `k`, where the second finds it. -/
theorem selectingTracksKeepsThem : Obligations.SelectingTracksKeepsThem := by
  intro s k t more hp h hk
  obtain ⟨hlt, rfl⟩ := List.getElem?_eq_some_iff.mp hk
  have hfirst := step_selectTrack hp h hk
  have hback : (s.parked.set k s.track)[k]? = some s.track := List.getElem?_set_self hlt
  refine ⟨⟨_, hfirst, rfl, hback, rfl⟩, ?_⟩
  have hsecond := step_selectTrack (s := { s with track := s.parked[k], parked := s.parked.set k s.track,
                                                  output := .nothing, pending := .selectTrack k :: more }) hp rfl hback
  rw [runs_succ hfirst, runs_one, hsecond, List.set_set, List.set_getElem_self]

/-! ### Reset (R230) -/

/-- Settles O57: `Track.reset` field by field (R36); the operation writes the Track and the output alone. -/
theorem resetZeroesTheTrack : Obligations.ResetZeroesTheTrack :=
  ⟨fun b => ⟨Track.reset_base b, Track.reset_cursor b, Track.reset_counter b, Track.reset_register b,
    Track.reset_accumulator b, Track.reset_instrument b, Track.reset_note b, Track.reset_syscode b,
    Track.reset_ticksRate b, Track.reset_wait b, Track.reset_sentHalt b, Track.reset_sentSyscall b,
    Track.reset_sentPlay b⟩, fun _ _ => rfl⟩

end Sys2Proof.Machine
